-- ==== Sys2Proof/Word.lean ====
section
/-! DEFINITION. The word types of the block, and a transaction as the host issues it (30_encoding.md
rules R100 and R101). -/

namespace Sys2Proof

/-- Every data path and every memory of the block is one byte wide (R71). -/
abbrev Byte := BitVec 8

/-- The `addr` field of a transaction word: a CPU address, a PPU address or an operation number (R101). -/
abbrev Addr := BitVec 16

/-- An address on the PPU bus (R60, R68). -/
abbrev PpuAddr := BitVec 14

/-- The scroll and address registers `v` and `t` (R20). -/
abbrev Scroll := BitVec 15

/-- The 32-bit transaction word (R100). -/
abbrev Word := BitVec 32

/-- A colour word 0xAARRGGBB (R217). -/
abbrev Argb := BitVec 32

/-- One operation the host applies to the block: the word W and the data byte D, which only a
write uses (R100, R101). -/
structure Transaction where
  word : Word
  data : Byte
  deriving DecidableEq, Repr, Inhabited

end Sys2Proof
end

