-- ==== Sys2Proof/Config.lean ====
section
/-! DEFINITION. The parameters of 00_scope.md rule R5, the defaults the spec gives three of them, and
the free values. A parameter is a field of State that no step changes, so that a statement over all
states holds for every value of it; a parameter without a default of the spec, and every `draw()`, is
an opaque constant here, of which nothing can be evaluated. -/

namespace Sys2Proof

/-- P_PAL_READ_BUFFER: what a palette-address PPUDATA read leaves in the read buffer (R5, R139). -/
inductive PalReadBuffer where
  | paletteValue
  | underlying
  | unchanged
  deriving DecidableEq, Repr, Inhabited

/-- P_CHR_ROM_WRITE: the effect of a CHR write when N > 0 (R5, R243). -/
inductive ChrRomWrite where
  | store
  | ignore
  | fault
  deriving DecidableEq, Repr, Inhabited

/-- P_MMC3_RAM_PROTECT: whether the RAM-protect port gates PRG RAM (R5, R323). -/
inductive RamProtect where
  | ignored
  | enforced
  deriving DecidableEq, Repr, Inhabited

/-- RESET_MMC1: the MMC1 registers after reset (R5, R290). -/
structure ResetMmc1 where
  control : BitVec 5
  chrBank0 : BitVec 5
  chrBank1 : BitVec 5
  prgBank : BitVec 4
  deriving DecidableEq, Repr, Inhabited

/-- The MMC3 registers R0 to R7, `bank_data[0..7]` (R310). -/
structure BankData where
  r0 : Byte
  r1 : Byte
  r2 : Byte
  r3 : Byte
  r4 : Byte
  r5 : Byte
  r6 : Byte
  r7 : Byte
  deriving DecidableEq, Repr, Inhabited

/-- RESET_MMC3: the MMC3 registers after reset (R5, R310). -/
structure ResetMmc3 where
  bankSelect : Byte
  bankData : BankData
  mirroringReg : Bool
  ramProtect : Byte
  irqPeriod : Byte
  deriving DecidableEq, Repr, Inhabited

/-- The parameters of R5 that are not the loaded image: the model's arguments, fixed for a session. -/
structure Params where
  palReadBuffer : PalReadBuffer
  spriteEvalGated : Bool
  chrRomWrite : ChrRomWrite
  mmc3RamProtect : RamProtect
  paletteArgb : Vector Argb 64
  /-- CART_RAM_INIT: the bytes of `prg_ram` after load, as (offset, byte) pairs; every other byte is 0. -/
  prgRamInit : List Host.Cell
  /-- CART_RAM_INIT: the bytes of the CHR RAM bank after load (N = 0), likewise. -/
  chrRamInit : List Host.Cell
  resetMmc1 : ResetMmc1
  resetMmc3 : ResetMmc3
  deriving DecidableEq, Repr

/-- `draw()`: the n-th unconstrained value the environment chooses (R7). FREE VALUE (safe), log entry 3. -/
opaque Config.draw : Nat → Byte

/-- P_PAL_READ_BUFFER of the session State.reset stands in. DESIGN CHOICE: FREE VALUE (safe), log entry 2. -/
opaque Config.palReadBuffer : PalReadBuffer

/-- P_SPRITE_EVAL_GATED of the session State.reset stands in. DESIGN CHOICE: FREE VALUE (safe), log entry 2. -/
opaque Config.spriteEvalGated : Bool

/-- P_CHR_ROM_WRITE of the session State.reset stands in. DESIGN CHOICE: FREE VALUE (safe), log entry 2. -/
opaque Config.chrRomWrite : ChrRomWrite

/-- P_MMC3_RAM_PROTECT of the session State.reset stands in. DESIGN CHOICE: FREE VALUE (safe), log entry 2. -/
opaque Config.mmc3RamProtect : RamProtect

/-- PALETTE_ARGB of the session State.reset stands in (D21). DESIGN CHOICE: FREE VALUE (safe), log entry 2. -/
opaque Config.paletteArgb : Vector Argb 64

/-- The spec's default of RESET_MMC1: control 0x0C, the others 0 (R5, R290). -/
def Config.resetMmc1 : ResetMmc1 := { control := 0x0C, chrBank0 := 0, chrBank1 := 0, prgBank := 0 }

/-- `bank_data[0..7]` all 0. -/
def Config.bankDataZero : BankData :=
  { r0 := 0, r1 := 0, r2 := 0, r3 := 0, r4 := 0, r5 := 0, r6 := 0, r7 := 0 }

/-- The spec's default of RESET_MMC3: all 0 (R5, R310). -/
def Config.resetMmc3 : ResetMmc3 :=
  { bankSelect := 0, bankData := Config.bankDataZero, mirroringReg := false, ramProtect := 0, irqPeriod := 0 }

/-- The parameters of the session State.reset stands in: the spec's default where it gives one
(CART_RAM_INIT all 0, RESET_MMC1, RESET_MMC3), a free value elsewhere. -/
def Config.params : Params :=
  { palReadBuffer := Config.palReadBuffer
    spriteEvalGated := Config.spriteEvalGated
    chrRomWrite := Config.chrRomWrite
    mmc3RamProtect := Config.mmc3RamProtect
    paletteArgb := Config.paletteArgb
    prgRamInit := []
    chrRamInit := []
    resetMmc1 := Config.resetMmc1
    resetMmc3 := Config.resetMmc3 }

end Sys2Proof
end

