-- ==== Sys2Proof/Syntax.lean ====
section
/-! DEFINITION. The 47 transactions of spec/opcode_table.json, one constructor a row. `a` is the address
field of the word (the operand A of the spec: a CPU address in the CPU space, a PPU address in the PPU
space) and `d` the data byte D of a write (30_encoding.md rules R100 and R101). -/

namespace Sys2Proof

/-- A decoded transaction (rules R104 to R107). -/
inductive Instr where
  /-- PPUCTRL_W, rule R130. -/
  | ppuCtrlW (a : Addr) (d : Byte)
  /-- PPUMASK_W, rule R131. -/
  | ppuMaskW (a : Addr) (d : Byte)
  /-- PPUSTATUS_W, rule R141. -/
  | ppuStatusW (a : Addr) (d : Byte)
  /-- OAMADDR_W, rule R133. -/
  | oamAddrW (a : Addr) (d : Byte)
  /-- OAMDATA_W, rule R134. -/
  | oamDataW (a : Addr) (d : Byte)
  /-- PPUSCROLL_W, rule R135. -/
  | ppuScrollW (a : Addr) (d : Byte)
  /-- PPUADDR_W, rule R136. -/
  | ppuAddrW (a : Addr) (d : Byte)
  /-- PPUDATA_W, rule R137. -/
  | ppuDataW (a : Addr) (d : Byte)
  /-- PPUCTRL_R, rule R144. -/
  | ppuCtrlR (a : Addr)
  /-- PPUMASK_R, rule R145. -/
  | ppuMaskR (a : Addr)
  /-- PPUSTATUS_R, rule R132. -/
  | ppuStatusR (a : Addr)
  /-- OAMADDR_R, rule R146. -/
  | oamAddrR (a : Addr)
  /-- OAMDATA_R, rule R142. -/
  | oamDataR (a : Addr)
  /-- PPUSCROLL_R, rule R147. -/
  | ppuScrollR (a : Addr)
  /-- PPUADDR_R, rule R148. -/
  | ppuAddrR (a : Addr)
  /-- PPUDATA_R, rule R139. -/
  | ppuDataR (a : Addr)
  /-- PRG_R, rule R241. -/
  | prgR (a : Addr)
  /-- RAM_R, rule R247. -/
  | ramR (a : Addr)
  /-- RAM_W, rule R248. -/
  | ramW (a : Addr) (d : Byte)
  /-- NROM_PRG_W, rule R271. -/
  | nromPrgW (a : Addr) (d : Byte)
  /-- UXROM_BANK_W, rule R274. -/
  | uxromBankW (a : Addr) (d : Byte)
  /-- CNROM_BANK_W, rule R277. -/
  | cnromBankW (a : Addr) (d : Byte)
  /-- MMC1_CONTROL_W, rule R293. -/
  | mmc1ControlW (a : Addr) (d : Byte)
  /-- MMC1_CHR0_W, rule R294. -/
  | mmc1Chr0W (a : Addr) (d : Byte)
  /-- MMC1_CHR1_W, rule R295. -/
  | mmc1Chr1W (a : Addr) (d : Byte)
  /-- MMC1_PRG_W, rule R296. -/
  | mmc1PrgW (a : Addr) (d : Byte)
  /-- MMC3_BANK_SELECT_W, rule R311. -/
  | mmc3BankSelectW (a : Addr) (d : Byte)
  /-- MMC3_BANK_DATA_W, rule R312. -/
  | mmc3BankDataW (a : Addr) (d : Byte)
  /-- MMC3_MIRRORING_W, rule R313. -/
  | mmc3MirroringW (a : Addr) (d : Byte)
  /-- MMC3_RAM_PROTECT_W, rule R314. -/
  | mmc3RamProtectW (a : Addr) (d : Byte)
  /-- MMC3_IRQ_LATCH_W, rule R316. -/
  | mmc3IrqLatchW (a : Addr) (d : Byte)
  /-- MMC3_IRQ_RELOAD_W, rule R317. -/
  | mmc3IrqReloadW (a : Addr) (d : Byte)
  /-- MMC3_IRQ_DISABLE_W, rule R318. -/
  | mmc3IrqDisableW (a : Addr) (d : Byte)
  /-- MMC3_IRQ_ENABLE_W, rule R319. -/
  | mmc3IrqEnableW (a : Addr) (d : Byte)
  /-- CHR_R, rule R242. -/
  | chrR (a : Addr)
  /-- CHR_W, rule R243. -/
  | chrW (a : Addr) (d : Byte)
  /-- NT_R, rule R81. -/
  | ntR (a : Addr)
  /-- NT_W, rule R82. -/
  | ntW (a : Addr) (d : Byte)
  /-- PAL_R, rule R83. -/
  | palR (a : Addr)
  /-- PAL_W, rule R84. -/
  | palW (a : Addr) (d : Byte)
  /-- TICK, rule R160. -/
  | tick
  /-- RESET, rule R371. -/
  | reset
  /-- NROM_HOOK, rule R272. -/
  | nromHook
  /-- MMC1_HOOK, rule R300. -/
  | mmc1Hook
  /-- UXROM_HOOK, rule R275. -/
  | uxromHook
  /-- CNROM_HOOK, rule R278. -/
  | cnromHook
  /-- MMC3_HOOK, rule R321. -/
  | mmc3Hook
  deriving DecidableEq, Repr

end Sys2Proof
end

