-- ==== Sys2Proof/WellFormed.lean ====
section
/-! DEFINITION. Which operands a transaction's row admits: the address field must lie in the set that
30_encoding.md rules R104 to R107 give the row. -/

namespace Sys2Proof

/-- A CPU address that reaches port `p`: 0x2000..0x3FFF with `addr[2:0] = p` (R104, R143). -/
def portAddr (p : Addr) (a : Addr) : Bool := a &&& 0xE007#16 == 0x2000#16 ||| p

/-- A CPU address of the PRG window 0x8000..0xFFFF (R65, R105). -/
def prgAddr (a : Addr) : Bool := a &&& 0x8000#16 == 0x8000#16

/-- A CPU address of the RAM window 0x6000..0x7FFF (R65, R105). -/
def ramAddr (a : Addr) : Bool := a &&& 0xE000#16 == 0x6000#16

/-- A CPU address of the MMC1 register range that starts at `base`: the register of
`(address >> 13) & 3` (R105). -/
def mmc1Addr (base : Addr) (a : Addr) : Bool := a &&& 0xE000#16 == base

/-- A CPU address of the MMC3 port `base`, by `address & 0x6001` inside 0x8000..0xFFFF (R105). -/
def mmc3Addr (base : Addr) (a : Addr) : Bool := a &&& 0xE001#16 == base

/-- A PPU address of character memory 0x0000..0x1FFF (R106). -/
def chrAddr (a : Addr) : Bool := a &&& 0xE000#16 == 0x0000#16

/-- A PPU address of the palette 0x3F00..0x3FFF (R106). -/
def palAddr (a : Addr) : Bool := a &&& 0xFF00#16 == 0x3F00#16

/-- A PPU address of the nametables 0x2000..0x3EFF: the palette rows win over the rest (R103, R106). -/
def ntAddr (a : Addr) : Bool := a &&& 0xE000#16 == 0x2000#16 && !palAddr a

/-- The operands the row of `i` admits. -/
def Instr.wf : Instr → Bool
  | .ppuCtrlW a _ => portAddr 0 a
  | .ppuMaskW a _ => portAddr 1 a
  | .ppuStatusW a _ => portAddr 2 a
  | .oamAddrW a _ => portAddr 3 a
  | .oamDataW a _ => portAddr 4 a
  | .ppuScrollW a _ => portAddr 5 a
  | .ppuAddrW a _ => portAddr 6 a
  | .ppuDataW a _ => portAddr 7 a
  | .ppuCtrlR a => portAddr 0 a
  | .ppuMaskR a => portAddr 1 a
  | .ppuStatusR a => portAddr 2 a
  | .oamAddrR a => portAddr 3 a
  | .oamDataR a => portAddr 4 a
  | .ppuScrollR a => portAddr 5 a
  | .ppuAddrR a => portAddr 6 a
  | .ppuDataR a => portAddr 7 a
  | .prgR a => prgAddr a
  | .ramR a => ramAddr a
  | .ramW a _ => ramAddr a
  | .nromPrgW a _ => prgAddr a
  | .uxromBankW a _ => prgAddr a
  | .cnromBankW a _ => prgAddr a
  | .mmc1ControlW a _ => mmc1Addr 0x8000 a
  | .mmc1Chr0W a _ => mmc1Addr 0xA000 a
  | .mmc1Chr1W a _ => mmc1Addr 0xC000 a
  | .mmc1PrgW a _ => mmc1Addr 0xE000 a
  | .mmc3BankSelectW a _ => mmc3Addr 0x8000 a
  | .mmc3BankDataW a _ => mmc3Addr 0x8001 a
  | .mmc3MirroringW a _ => mmc3Addr 0xA000 a
  | .mmc3RamProtectW a _ => mmc3Addr 0xA001 a
  | .mmc3IrqLatchW a _ => mmc3Addr 0xC000 a
  | .mmc3IrqReloadW a _ => mmc3Addr 0xC001 a
  | .mmc3IrqDisableW a _ => mmc3Addr 0xE000 a
  | .mmc3IrqEnableW a _ => mmc3Addr 0xE001 a
  | .chrR a => chrAddr a
  | .chrW a _ => chrAddr a
  | .ntR a => ntAddr a
  | .ntW a _ => ntAddr a
  | .palR a => palAddr a
  | .palW a _ => palAddr a
  | .tick => true
  | .reset => true
  | .nromHook => true
  | .mmc1Hook => true
  | .uxromHook => true
  | .cnromHook => true
  | .mmc3Hook => true

end Sys2Proof
end

