-- ==== Sys2Proof/Decode.lean ====
section
/-! DEFINITION. The decoder of transaction words (30_encoding.md rules R100 to R108), the encoder, and the
masks and matches of spec/opcode_table.json. -/

namespace Sys2Proof

/-- Why a word matches no row (R103, R108). -/
inductive Reject where
  /-- Bits 23:20 or 16 are not 0. -/
  | reservedBits
  /-- Space 3. -/
  | reservedSpace
  /-- A CPU address in 0x0000..0x1FFF or 0x4000..0x5FFF: outside the block. -/
  | cpuAddress (a : Addr)
  /-- A PPU address with bits 15:14 not zero. -/
  | ppuAddress (a : Addr)
  /-- A control word with `rw` set. -/
  | controlWrite
  /-- A control operation number 3..0xFFFF. -/
  | controlOperation (n : Addr)
  /-- A mapper write or a hook whose `mapper_id` no variant has. -/
  | noMapperRow (mapperId : Byte)
  deriving DecidableEq, Repr

/-- Bits 31:24: `mapper_id` (R100). -/
def wordMapper (w : Word) : Byte := w.extractLsb' 24 8

/-- Bits 19:18: `space` (R100). -/
def wordSpace (w : Word) : BitVec 2 := w.extractLsb' 18 2

/-- Bit 17: `rw`, 1 for a write (R100). -/
def wordWrite (w : Word) : Bool := w.getLsbD 17

/-- Bits 15:0: `addr` (R100). -/
def wordAddr (w : Word) : Addr := w.extractLsb' 0 16

/-- Bits 23:20 and 16 are 0 (R100). -/
def wordReservedZero (w : Word) : Bool := w.extractLsb' 20 4 == 0#4 && !w.getLsbD 16

/-- The word of the fields of R100, the reserved bits 0. -/
def packWord (mapperId : Byte) (space : BitVec 2) (write : Bool) (a : Addr) : Word :=
  mapperId ++ 0#4 ++ space ++ BitVec.ofBool write ++ 0#1 ++ a

/-- The port write row of `addr[2:0]` (R104). -/
def decodePortWrite (a : Addr) (d : Byte) : Instr :=
  match (a.extractLsb' 0 3).toNat with
  | 0 => .ppuCtrlW a d
  | 1 => .ppuMaskW a d
  | 2 => .ppuStatusW a d
  | 3 => .oamAddrW a d
  | 4 => .oamDataW a d
  | 5 => .ppuScrollW a d
  | 6 => .ppuAddrW a d
  | _ => .ppuDataW a d

/-- The port read row of `addr[2:0]` (R104). -/
def decodePortRead (a : Addr) : Instr :=
  match (a.extractLsb' 0 3).toNat with
  | 0 => .ppuCtrlR a
  | 1 => .ppuMaskR a
  | 2 => .ppuStatusR a
  | 3 => .oamAddrR a
  | 4 => .oamDataR a
  | 5 => .ppuScrollR a
  | 6 => .ppuAddrR a
  | _ => .ppuDataR a

/-- The MMC1 row of `(address >> 13) & 3` (R105). -/
def decodeMmc1Write (a : Addr) (d : Byte) : Instr :=
  match (a.extractLsb' 13 2).toNat with
  | 0 => .mmc1ControlW a d
  | 1 => .mmc1Chr0W a d
  | 2 => .mmc1Chr1W a d
  | _ => .mmc1PrgW a d

/-- The MMC3 row of `address & 0x6001` (R105). -/
def decodeMmc3Write (a : Addr) (d : Byte) : Instr :=
  match (a.extractLsb' 13 2).toNat, a.getLsbD 0 with
  | 0, false => .mmc3BankSelectW a d
  | 0, true => .mmc3BankDataW a d
  | 1, false => .mmc3MirroringW a d
  | 1, true => .mmc3RamProtectW a d
  | 2, false => .mmc3IrqLatchW a d
  | 2, true => .mmc3IrqReloadW a d
  | _, false => .mmc3IrqDisableW a d
  | _, true => .mmc3IrqEnableW a d

/-- The mapper write row of `mapper_id` (R105). -/
def decodeMapperWrite (mapperId : Byte) (a : Addr) (d : Byte) : Except Reject Instr :=
  match mapperId.toNat with
  | 0 => .ok (.nromPrgW a d)
  | 1 => .ok (decodeMmc1Write a d)
  | 2 => .ok (.uxromBankW a d)
  | 3 => .ok (.cnromBankW a d)
  | 4 => .ok (decodeMmc3Write a d)
  | _ => .error (.noMapperRow mapperId)

/-- CPU space: ports, RAM window, PRG window; the rest is outside the block (R104, R105, R108). -/
def decodeCpu (mapperId : Byte) (write : Bool) (a : Addr) (d : Byte) : Except Reject Instr :=
  if a &&& 0xE000#16 = 0x2000#16 then .ok (if write then decodePortWrite a d else decodePortRead a)
  else if ramAddr a then .ok (if write then .ramW a d else .ramR a)
  else if prgAddr a then (if write then decodeMapperWrite mapperId a d else .ok (.prgR a))
  else .error (.cpuAddress a)

/-- PPU space (R106, R108). -/
def decodePpu (write : Bool) (a : Addr) (d : Byte) : Except Reject Instr :=
  if chrAddr a then .ok (if write then .chrW a d else .chrR a)
  else if palAddr a then .ok (if write then .palW a d else .palR a)
  else if ntAddr a then .ok (if write then .ntW a d else .ntR a)
  else .error (.ppuAddress a)

/-- The hook row of `mapper_id` (R107). -/
def decodeHook (mapperId : Byte) : Except Reject Instr :=
  match mapperId.toNat with
  | 0 => .ok .nromHook
  | 1 => .ok .mmc1Hook
  | 2 => .ok .uxromHook
  | 3 => .ok .cnromHook
  | 4 => .ok .mmc3Hook
  | _ => .error (.noMapperRow mapperId)

/-- Control space: operation 0 TICK, 1 MAPPER_HOOK, 2 RESET (R102, R107, R108). -/
def decodeControl (mapperId : Byte) (write : Bool) (op : Addr) : Except Reject Instr :=
  if write then .error .controlWrite
  else
    match op.toNat with
    | 0 => .ok .tick
    | 1 => decodeHook mapperId
    | 2 => .ok .reset
    | _ => .error (.controlOperation op)

/-- The row a word decodes to, with its operands, or why no row matches (R103, R108). That the word's
`mapper_id` must be the session's is checked where the session is known (Machine/Fetch.lean). -/
def decode (t : Transaction) : Except Reject Instr :=
  if wordReservedZero t.word then
    match (wordSpace t.word).toNat with
    | 0 => decodeCpu (wordMapper t.word) (wordWrite t.word) (wordAddr t.word) t.data
    | 1 => decodePpu (wordWrite t.word) (wordAddr t.word) t.data
    | 2 => decodeControl (wordMapper t.word) (wordWrite t.word) (wordAddr t.word)
    | _ => .error .reservedSpace
  else .error .reservedBits

/-- The word and the data byte of an instruction in a session of mapper `mapperId`: a row that depends
on the mapper has its own variant's number whatever the session (R100, R104 to R107). A read or a
control operation has no data byte: 0. -/
def encode (mapperId : Byte) : Instr → Transaction
  | .ppuCtrlW a d => ⟨packWord mapperId 0#2 true a, d⟩
  | .ppuMaskW a d => ⟨packWord mapperId 0#2 true a, d⟩
  | .ppuStatusW a d => ⟨packWord mapperId 0#2 true a, d⟩
  | .oamAddrW a d => ⟨packWord mapperId 0#2 true a, d⟩
  | .oamDataW a d => ⟨packWord mapperId 0#2 true a, d⟩
  | .ppuScrollW a d => ⟨packWord mapperId 0#2 true a, d⟩
  | .ppuAddrW a d => ⟨packWord mapperId 0#2 true a, d⟩
  | .ppuDataW a d => ⟨packWord mapperId 0#2 true a, d⟩
  | .ppuCtrlR a => ⟨packWord mapperId 0#2 false a, 0#8⟩
  | .ppuMaskR a => ⟨packWord mapperId 0#2 false a, 0#8⟩
  | .ppuStatusR a => ⟨packWord mapperId 0#2 false a, 0#8⟩
  | .oamAddrR a => ⟨packWord mapperId 0#2 false a, 0#8⟩
  | .oamDataR a => ⟨packWord mapperId 0#2 false a, 0#8⟩
  | .ppuScrollR a => ⟨packWord mapperId 0#2 false a, 0#8⟩
  | .ppuAddrR a => ⟨packWord mapperId 0#2 false a, 0#8⟩
  | .ppuDataR a => ⟨packWord mapperId 0#2 false a, 0#8⟩
  | .prgR a => ⟨packWord mapperId 0#2 false a, 0#8⟩
  | .ramR a => ⟨packWord mapperId 0#2 false a, 0#8⟩
  | .ramW a d => ⟨packWord mapperId 0#2 true a, d⟩
  | .nromPrgW a d => ⟨packWord 0#8 0#2 true a, d⟩
  | .uxromBankW a d => ⟨packWord 2#8 0#2 true a, d⟩
  | .cnromBankW a d => ⟨packWord 3#8 0#2 true a, d⟩
  | .mmc1ControlW a d => ⟨packWord 1#8 0#2 true a, d⟩
  | .mmc1Chr0W a d => ⟨packWord 1#8 0#2 true a, d⟩
  | .mmc1Chr1W a d => ⟨packWord 1#8 0#2 true a, d⟩
  | .mmc1PrgW a d => ⟨packWord 1#8 0#2 true a, d⟩
  | .mmc3BankSelectW a d => ⟨packWord 4#8 0#2 true a, d⟩
  | .mmc3BankDataW a d => ⟨packWord 4#8 0#2 true a, d⟩
  | .mmc3MirroringW a d => ⟨packWord 4#8 0#2 true a, d⟩
  | .mmc3RamProtectW a d => ⟨packWord 4#8 0#2 true a, d⟩
  | .mmc3IrqLatchW a d => ⟨packWord 4#8 0#2 true a, d⟩
  | .mmc3IrqReloadW a d => ⟨packWord 4#8 0#2 true a, d⟩
  | .mmc3IrqDisableW a d => ⟨packWord 4#8 0#2 true a, d⟩
  | .mmc3IrqEnableW a d => ⟨packWord 4#8 0#2 true a, d⟩
  | .chrR a => ⟨packWord mapperId 1#2 false a, 0#8⟩
  | .chrW a d => ⟨packWord mapperId 1#2 true a, d⟩
  | .ntR a => ⟨packWord mapperId 1#2 false a, 0#8⟩
  | .ntW a d => ⟨packWord mapperId 1#2 true a, d⟩
  | .palR a => ⟨packWord mapperId 1#2 false a, 0#8⟩
  | .palW a d => ⟨packWord mapperId 1#2 true a, d⟩
  | .tick => ⟨packWord mapperId 2#2 false 0x0000#16, 0#8⟩
  | .reset => ⟨packWord mapperId 2#2 false 0x0002#16, 0#8⟩
  | .nromHook => ⟨packWord 0#8 2#2 false 0x0001#16, 0#8⟩
  | .mmc1Hook => ⟨packWord 1#8 2#2 false 0x0001#16, 0#8⟩
  | .uxromHook => ⟨packWord 2#8 2#2 false 0x0001#16, 0#8⟩
  | .cnromHook => ⟨packWord 3#8 2#2 false 0x0001#16, 0#8⟩
  | .mmc3Hook => ⟨packWord 4#8 2#2 false 0x0001#16, 0#8⟩

/-- A row of spec/opcode_table.json: a word W is of the row when `W AND mask = pattern` (R103). -/
structure Row where
  mask : Word
  pattern : Word
  deriving DecidableEq, Repr

/-- `W AND mask = match` (R103). -/
def Row.hits (r : Row) (w : Word) : Bool := w &&& r.mask == r.pattern

/-- The table's row of an instruction (R104 to R107). -/
def Instr.row : Instr → Row
  | .ppuCtrlW _ _ => ⟨0x00FFE007, 0x00022000⟩
  | .ppuMaskW _ _ => ⟨0x00FFE007, 0x00022001⟩
  | .ppuStatusW _ _ => ⟨0x00FFE007, 0x00022002⟩
  | .oamAddrW _ _ => ⟨0x00FFE007, 0x00022003⟩
  | .oamDataW _ _ => ⟨0x00FFE007, 0x00022004⟩
  | .ppuScrollW _ _ => ⟨0x00FFE007, 0x00022005⟩
  | .ppuAddrW _ _ => ⟨0x00FFE007, 0x00022006⟩
  | .ppuDataW _ _ => ⟨0x00FFE007, 0x00022007⟩
  | .ppuCtrlR _ => ⟨0x00FFE007, 0x00002000⟩
  | .ppuMaskR _ => ⟨0x00FFE007, 0x00002001⟩
  | .ppuStatusR _ => ⟨0x00FFE007, 0x00002002⟩
  | .oamAddrR _ => ⟨0x00FFE007, 0x00002003⟩
  | .oamDataR _ => ⟨0x00FFE007, 0x00002004⟩
  | .ppuScrollR _ => ⟨0x00FFE007, 0x00002005⟩
  | .ppuAddrR _ => ⟨0x00FFE007, 0x00002006⟩
  | .ppuDataR _ => ⟨0x00FFE007, 0x00002007⟩
  | .prgR _ => ⟨0x00FF8000, 0x00008000⟩
  | .ramR _ => ⟨0x00FFE000, 0x00006000⟩
  | .ramW _ _ => ⟨0x00FFE000, 0x00026000⟩
  | .nromPrgW _ _ => ⟨0xFFFF8000, 0x00028000⟩
  | .uxromBankW _ _ => ⟨0xFFFF8000, 0x02028000⟩
  | .cnromBankW _ _ => ⟨0xFFFF8000, 0x03028000⟩
  | .mmc1ControlW _ _ => ⟨0xFFFFE000, 0x01028000⟩
  | .mmc1Chr0W _ _ => ⟨0xFFFFE000, 0x0102A000⟩
  | .mmc1Chr1W _ _ => ⟨0xFFFFE000, 0x0102C000⟩
  | .mmc1PrgW _ _ => ⟨0xFFFFE000, 0x0102E000⟩
  | .mmc3BankSelectW _ _ => ⟨0xFFFFE001, 0x04028000⟩
  | .mmc3BankDataW _ _ => ⟨0xFFFFE001, 0x04028001⟩
  | .mmc3MirroringW _ _ => ⟨0xFFFFE001, 0x0402A000⟩
  | .mmc3RamProtectW _ _ => ⟨0xFFFFE001, 0x0402A001⟩
  | .mmc3IrqLatchW _ _ => ⟨0xFFFFE001, 0x0402C000⟩
  | .mmc3IrqReloadW _ _ => ⟨0xFFFFE001, 0x0402C001⟩
  | .mmc3IrqDisableW _ _ => ⟨0xFFFFE001, 0x0402E000⟩
  | .mmc3IrqEnableW _ _ => ⟨0xFFFFE001, 0x0402E001⟩
  | .chrR _ => ⟨0x00FFE000, 0x00040000⟩
  | .chrW _ _ => ⟨0x00FFE000, 0x00060000⟩
  | .ntR _ => ⟨0x00FFE000, 0x00042000⟩
  | .ntW _ _ => ⟨0x00FFE000, 0x00062000⟩
  | .palR _ => ⟨0x00FFFF00, 0x00043F00⟩
  | .palW _ _ => ⟨0x00FFFF00, 0x00063F00⟩
  | .tick => ⟨0x00FFFFFF, 0x00080000⟩
  | .reset => ⟨0x00FFFFFF, 0x00080002⟩
  | .nromHook => ⟨0xFFFFFFFF, 0x00080001⟩
  | .mmc1Hook => ⟨0xFFFFFFFF, 0x01080001⟩
  | .uxromHook => ⟨0xFFFFFFFF, 0x02080001⟩
  | .cnromHook => ⟨0xFFFFFFFF, 0x03080001⟩
  | .mmc3Hook => ⟨0xFFFFFFFF, 0x04080001⟩

/-- The PPUPORT rows (R104). -/
def portRows : List Row :=
  [(Instr.ppuCtrlW 0 0).row,
   (Instr.ppuMaskW 0 0).row,
   (Instr.ppuStatusW 0 0).row,
   (Instr.oamAddrW 0 0).row,
   (Instr.oamDataW 0 0).row,
   (Instr.ppuScrollW 0 0).row,
   (Instr.ppuAddrW 0 0).row,
   (Instr.ppuDataW 0 0).row,
   (Instr.ppuCtrlR 0).row,
   (Instr.ppuMaskR 0).row,
   (Instr.ppuStatusR 0).row,
   (Instr.oamAddrR 0).row,
   (Instr.oamDataR 0).row,
   (Instr.ppuScrollR 0).row,
   (Instr.ppuAddrR 0).row,
   (Instr.ppuDataR 0).row]

/-- The CPUCART rows (R105). -/
def cartRows : List Row :=
  [(Instr.prgR 0).row,
   (Instr.ramR 0).row,
   (Instr.ramW 0 0).row,
   (Instr.nromPrgW 0 0).row,
   (Instr.uxromBankW 0 0).row,
   (Instr.cnromBankW 0 0).row,
   (Instr.mmc1ControlW 0 0).row,
   (Instr.mmc1Chr0W 0 0).row,
   (Instr.mmc1Chr1W 0 0).row,
   (Instr.mmc1PrgW 0 0).row,
   (Instr.mmc3BankSelectW 0 0).row,
   (Instr.mmc3BankDataW 0 0).row,
   (Instr.mmc3MirroringW 0 0).row,
   (Instr.mmc3RamProtectW 0 0).row,
   (Instr.mmc3IrqLatchW 0 0).row,
   (Instr.mmc3IrqReloadW 0 0).row,
   (Instr.mmc3IrqDisableW 0 0).row,
   (Instr.mmc3IrqEnableW 0 0).row]

/-- The PPUBUS rows (R106). -/
def busRows : List Row :=
  [(Instr.chrR 0).row,
   (Instr.chrW 0 0).row,
   (Instr.ntR 0).row,
   (Instr.ntW 0 0).row,
   (Instr.palR 0).row,
   (Instr.palW 0 0).row]

/-- The CTRL rows (R107). -/
def controlRows : List Row :=
  [(Instr.tick).row,
   (Instr.reset).row,
   (Instr.nromHook).row,
   (Instr.mmc1Hook).row,
   (Instr.uxromHook).row,
   (Instr.cnromHook).row,
   (Instr.mmc3Hook).row]

/-- All 47 rows. -/
def allRows : List Row := portRows ++ cartRows ++ busRows ++ controlRows

/-- The transaction whose word is the low 32 bits of the number `w`, kept to its `nbits` bits, and whose data
byte is the next 8 bits: 0 where the table's row is 32 bits long. DEDUCED, safe, log entry 7. -/
def transactionOfNat (nbits w : Nat) : Transaction :=
  ⟨BitVec.ofNat 32 (w % 2 ^ nbits), BitVec.ofNat 8 (w % 2 ^ nbits / 2 ^ 32)⟩

/-- The instruction the decoder reads from a table word, numbered as spec/opcode_table.json numbers it. -/
def decodeTableWord (nbits w : Nat) : Option Instr :=
  match decode (transactionOfNat nbits w) with
  | .ok i => some i
  | .error _ => none

end Sys2Proof
end

