-- ==== Sys2Proof/Machine/State.lean ====
section
/-! DEFINITION. The state of the block as plain data (10_state.md), the faults (60_exceptions.md R340 to
R347) and the refusals (30_encoding.md R103, 60_exceptions.md R346, 70_reset_and_hazards.md R373), and the
state right after reset (R36, R371). -/

namespace Sys2Proof.Machine

/-- A byte memory in canonical form: addresses strictly rising, no entry equal to what an unlisted
address reads as (`unlistedByte`). -/
abbrev Memory := List Host.Cell

/-- What a byte that no cell lists reads as: the reset contents of OAM, nametables and palette (R36) and
the spec's default of CART_RAM_INIT (R5); an image's own bytes are listed at load.
DEDUCED, safe, log entry 5. -/
def unlistedByte : Byte := 0#8

/-- The nametable arrangement on the bus (R31). -/
inductive Mirroring where
  | horizontal
  | vertical
  | oneScreenLower
  | oneScreenUpper
  deriving DecidableEq, Repr, Inhabited

/-- A sprite entry (R28). `id` is the OAM entry number 0..63, or 64 for no sprite. -/
structure SpriteEntry where
  id : BitVec 7
  positionX : Byte
  positionY : Byte
  tile : Byte
  attributes : Byte
  dataLow : Byte
  dataHigh : Byte
  deriving DecidableEq, Repr, Inhabited

/-- The three stored bits of the status register (R25). -/
structure Status where
  spriteOverflow : Bool
  spriteZeroHit : Bool
  verticalBlank : Bool
  deriving DecidableEq, Repr, Inhabited

/-- The PPU: registers (R20 to R22, R24, R25), position (R23), sprite arrays (R28), OAM, nametables and
palette (R27, R29, R30). -/
structure Ppu where
  v : Scroll
  t : Scroll
  fineX : BitVec 3
  w : Bool
  readBuffer : Byte
  oamAddr : Byte
  control : Byte
  mask : Byte
  status : Status
  bgShiftLow : BitVec 16
  bgShiftHigh : BitVec 16
  atShiftLow : Byte
  atShiftHigh : Byte
  atFeedLow : Bool
  atFeedHigh : Bool
  fetchAddr : PpuAddr
  ntByte : Byte
  atByte : Byte
  patternLow : Byte
  patternHigh : Byte
  scanline : Nat
  dot : Nat
  frameOdd : Bool
  sprites : List SpriteEntry
  secondary : List SpriteEntry
  oam : Memory
  ntMem : Memory
  palMem : Memory
  deriving DecidableEq, Repr

/-- An entry of a bank-index table: a storage bank and the offset of the window's first byte in it (R32). -/
structure Window where
  bank : Nat
  offset : Nat
  deriving DecidableEq, Repr, Inhabited

/-- The MMC1 registers (R290). -/
structure Mmc1 where
  shiftValue : BitVec 5
  shiftCount : Nat
  control : BitVec 5
  chrBank0 : BitVec 5
  chrBank1 : BitVec 5
  prgBank : BitVec 4
  deriving DecidableEq, Repr, Inhabited

/-- The MMC3 registers (R310). -/
structure Mmc3 where
  bankSelect : Byte
  bankData : BankData
  mirroringReg : Bool
  ramProtect : Byte
  irqPeriod : Byte
  irqCounter : Byte
  irqEnabled : Bool
  deriving DecidableEq, Repr, Inhabited

/-- The active mapper variant with its registers (R33, R240). The variant IS the session's MAPPER_ID, so
no state has a MAPPER_ID outside 0..4 (R346). DEDUCED, safe, log entry 8. -/
inductive Mapper where
  | nrom
  | uxrom (prgSelect : BitVec 4)
  | cnrom (chrSelect : BitVec 2)
  | mmc1 (r : Mmc1)
  | mmc3 (r : Mmc3)
  deriving DecidableEq, Repr, Inhabited

/-- The cartridge: geometry and storage (R34, R252). `chrRomBanks` is the header's count N; storage byte j
of bank b is at b * bank size + j (R63). -/
structure Cartridge where
  prgBanks : Nat
  chrRomBanks : Nat
  ramBanks : Nat
  hdrVertical : Bool
  prgRom : Memory
  chr : Memory
  prgRam : Memory
  deriving DecidableEq, Repr

/-- An output event (R350). -/
inductive Event where
  | displayWrite (x y : Nat) (argb : Argb)
  | displayUpdate
  | nmi
  | irq
  | mapperHook
  deriving DecidableEq, Repr

/-- The state of the block, its parameters, the host's stream and the block's outputs. -/
structure State where
  ppu : Ppu
  mirroring : Mirroring
  mapper : Mapper
  prgTable : List Window
  chrTable : List Window
  cart : Cartridge
  params : Params
  /-- The cartridge's `loaded` flag (R251). -/
  loaded : Bool
  /-- The session's first RESET has been issued (R370, R373). -/
  started : Bool
  /-- The byte the latest transaction returned; `none` for a completed write or control operation (R100).
  DEDUCED, safe, log entry 6. -/
  result : Option Byte
  /-- The event trace, oldest first (R350). -/
  events : List Event
  /-- The host's transactions still to come, in the order it issues them (R76). DEDUCED, safe, log
  entry 1. -/
  pending : List Transaction
  /-- How many `draw()` values have been taken: the model's own counter.
  DESIGN CHOICE 0 at reset, safe, log entry 3. -/
  draws : Nat
  deriving DecidableEq, Repr

/-- Why the machine stops with a fault (R340). Every fault ends the session with the state as it was
before the faulting transaction. SAFE: the spec gives each of them. -/
inductive Fault where
  /-- The PPU was handed a port index of 8 or more (R341). Raised by the port functions of
  Machine/Ports.lean only; no transaction reaches it. Safe. -/
  | unsupportedPpuPort (port : Nat)
  /-- A mapper was asked to handle an address outside its documented set (R342). Raised by NROM_PRG_W and by
  a CHR write to CHR ROM under P_CHR_ROM_WRITE = Fault; in states no session reaches, by a read or
  write whose window the bank-index table does not hold (DESIGN CHOICE, log entry 13); and by the debug
  translation of an address outside the range the spec gives it for (DESIGN CHOICE, log entry 21). Safe. -/
  | unsupportedMapperAddress (a : Nat)
  /-- A storage access with a bank at or above the count (R343). Raised by the storage accesses of
  Machine/Operands.lean, in states no session reaches only. Safe. -/
  | invalidBankIndex (bank : Nat)
  /-- `load` was given a malformed image (R344). Raised by Machine/Load.lean only. Safe. -/
  | malformedCartridge
  /-- `load` could not open the path (R345). Raised by Machine/Load.lean only. Safe. -/
  | cartridgeNotFound
  deriving DecidableEq, Repr

/-- Why a transaction or a session has no meaning. -/
inductive Refusal where
  /-- Raised by an arm of exec that has no meaning yet. Safe. -/
  | notModelled (mnemonic : String)
  /-- The word matches no row (R103, R108). Raised by the fetch. Safe. -/
  | undecoded (r : Reject)
  /-- The word's `mapper_id`, or the variant the row is for, is not the session's (R103). Raised by the fetch
  and by the meanings of the mapper rows. Safe. -/
  | otherMapper (id : Byte)
  /-- A session needs a loaded cartridge (R254, R373). Raised by the fetch. Safe. -/
  | noCartridge
  /-- A transaction before the first RESET of a session (R373). Raised by the fetch. Safe. -/
  | beforeReset
  /-- UnsupportedMapper, code 6: the image's MAPPER_ID is not in 0..4, so the session is refused at setup
  (R253, R346). Raised by Machine/Load.lean. DEDUCED, log entry 10. Safe. -/
  | unsupportedMapper (id : Byte)
  deriving DecidableEq, Repr

/-- A sprite entry with every field 0 (R28, R36). -/
def SpriteEntry.zero : SpriteEntry :=
  { id := 0, positionX := 0, positionY := 0, tile := 0, attributes := 0, dataLow := 0, dataHigh := 0 }

/-- The PPU "all zeroed" (R36, R371). -/
def Ppu.zero : Ppu :=
  { v := 0, t := 0, fineX := 0, w := false, readBuffer := 0, oamAddr := 0, control := 0, mask := 0
    status := { spriteOverflow := false, spriteZeroHit := false, verticalBlank := false }
    bgShiftLow := 0, bgShiftHigh := 0, atShiftLow := 0, atShiftHigh := 0
    atFeedLow := false, atFeedHigh := false
    fetchAddr := 0, ntByte := 0, atByte := 0, patternLow := 0, patternHigh := 0
    scanline := 0, dot := 0, frameOdd := false
    sprites := List.replicate 8 SpriteEntry.zero, secondary := List.replicate 8 SpriteEntry.zero
    oam := [], ntMem := [], palMem := [] }

/-- The cartridge of the session State.reset stands in: what `load` gives for the smallest image it accepts,
P = 1 and every other header byte 0 (R250 to R252), with CART_RAM_INIT its default. DESIGN CHOICE, unsafe, log
entry 4: the spec's cartridge is whatever the host loads. -/
def Cartridge.smallest : Cartridge :=
  { prgBanks := 1, chrRomBanks := 0, ramBanks := 1, hdrVertical := false, prgRom := [], chr := [], prgRam := [] }

/-- The machine right after the RESET of a session (R36, R371): every PPU register and memory 0, the
position (0, 0, 0), the tables and the mirroring those of the mapper (R270, R372), no event, nothing
issued. -/
def State.reset : State :=
  { ppu := Ppu.zero
    mirroring := .horizontal
    mapper := .nrom
    prgTable := [⟨0, 0⟩, ⟨0, 0⟩]
    chrTable := [⟨0, 0⟩]
    cart := Cartridge.smallest
    params := Config.params
    loaded := true
    started := true
    result := none
    events := []
    pending := []
    draws := 0 }

end Sys2Proof.Machine
end

