-- ==== Sys2Proof/Machine/Ops.lean ====
section
/-! DEFINITION. The named operations over memory, the outcome of a transaction, the event trace and the
free values. The block takes no traps (60_exceptions.md R353): what the spec describes in their place is
`raise`, the fault that ends the session (R340), and `emit`, the event an interrupt output is (R350,
R351); there is no saved state, no vector, no handler and no return. -/

namespace Sys2Proof.Machine

/-- The byte at an address of a memory: the listed one, or what an unlisted byte reads as. -/
def memRead : Memory → Nat → Byte
  | [], _ => unlistedByte
  | (k, b) :: m, a => if k = a then b else memRead m a

/-- Writes a byte, keeping the canonical form: a byte equal to the unlisted one removes the entry. -/
def memWrite : Memory → Nat → Byte → Memory
  | [], a, d => if d = unlistedByte then [] else [(a, d)]
  | (k, b) :: m, a, d =>
    if a < k then (if d = unlistedByte then (k, b) :: m else (a, d) :: (k, b) :: m)
    else if a = k then (if d = unlistedByte then m else (a, d) :: m)
    else (k, b) :: memWrite m a d

/-- The canonical form: addresses strictly rising, no entry equal to the unlisted byte. -/
abbrev Memory.wf (m : Memory) : Prop :=
  m.Pairwise (fun c e => c.1 < e.1) ∧ ∀ c ∈ m, c.2 ≠ unlistedByte

/-- The memory of consecutive bytes from address `base` on. -/
def memOfBytes (base : Nat) : List Byte → Memory
  | [] => []
  | b :: bs => if b = unlistedByte then memOfBytes (base + 1) bs else (base, b) :: memOfBytes (base + 1) bs

/-- The memory of `size` bytes that holds the given (address, byte) pairs. DESIGN CHOICE, safe, log entry 18. -/
def memOfCells (size : Nat) (cells : List Host.Cell) : Memory :=
  cells.foldl (fun m c => if c.1 < size then memWrite m c.1 c.2 else m) []

/-- The six backing memories of rule R7. -/
inductive Space where
  | nt
  | pal
  | oam
  | prg
  | chr
  | ram
  deriving DecidableEq, Repr

/-- The memory that backs a space (R7, R27, R29, R30, R34). -/
def State.memory (s : State) : Space → Memory
  | .nt => s.ppu.ntMem
  | .pal => s.ppu.palMem
  | .oam => s.ppu.oam
  | .prg => s.cart.prgRom
  | .chr => s.cart.chr
  | .ram => s.cart.prgRam

/-- `MemRead(space, addr, 1)` (R7): one byte of one backing memory. -/
def byteAt (s : State) (k : Space) (a : Nat) : Byte := memRead (s.memory k) a

/-- Replaces the PPU. -/
def setPpu (p : Ppu) (s : State) : State := { s with ppu := p }

/-- Replaces the cartridge. -/
def setCart (c : Cartridge) (s : State) : State := { s with cart := c }

/-- Replaces the mapper's registers. -/
def setMapper (m : Mapper) (s : State) : State := { s with mapper := m }

/-- Appends an event to the trace: `emit E` (R7, R350). -/
def emit (e : Event) (s : State) : State := { s with events := s.events ++ [e] }

/-- The outcome of a read: the byte returned (R100). -/
def returnByte (b : Byte) (s : State) : State := { s with result := some b }

/-- The outcome of a write or a control operation: completion (R100). -/
def complete (s : State) : State := { s with result := none }

/-- `draw()`: a value the environment chooses (R7). A free value, safe, log entry 3. -/
def drawn (s : State) : Byte := Config.draw s.draws

/-- A `draw()` has been taken: the next one is a fresh value. -/
def tookDraw (s : State) : State := { s with draws := s.draws + 1 }

/-- `raise F`: the transaction and the session end in F, with the state as it was before (R7, R340).
DEDUCED, safe, log entry 9. -/
def raise (f : Fault) : Host.Outcome State Fault Refusal := .fault f

/-- The outcome of a transaction that may raise. -/
def settle : Except Fault State → Host.Outcome State Fault Refusal
  | .ok s => .next s
  | .error f => raise f

/-- The spec's code of a fault (table R340). -/
def Fault.code : Fault → Nat
  | .unsupportedPpuPort _ => 1
  | .unsupportedMapperAddress _ => 2
  | .invalidBankIndex _ => 3
  | .malformedCartridge => 4
  | .cartridgeNotFound => 5

/-- The spec's code of UnsupportedMapper (table R340), which refuses the session (R346). -/
def unsupportedMapperCode : Nat := 6

/-- MAPPER_ID of a variant (R240). -/
def Mapper.id : Mapper → Byte
  | .nrom => 0#8
  | .mmc1 _ => 1#8
  | .uxrom _ => 2#8
  | .cnrom _ => 3#8
  | .mmc3 _ => 4#8

/-- C, the CHR banks the mapper sees: N, or the one CHR RAM bank when N = 0 (R252). -/
def chrBanks (c : Cartridge) : Nat := if c.chrRomBanks = 0 then 1 else c.chrRomBanks

/-- `bank_data[k]` (R310). -/
def bankDataGet (b : BankData) (k : BitVec 3) : Byte :=
  match k.toNat with
  | 0 => b.r0
  | 1 => b.r1
  | 2 => b.r2
  | 3 => b.r3
  | 4 => b.r4
  | 5 => b.r5
  | 6 => b.r6
  | _ => b.r7

/-- `bank_data[k] <- d` (R312). -/
def bankDataSet (b : BankData) (k : BitVec 3) (d : Byte) : BankData :=
  match k.toNat with
  | 0 => { b with r0 := d }
  | 1 => { b with r1 := d }
  | 2 => { b with r2 := d }
  | 3 => { b with r3 := d }
  | 4 => { b with r4 := d }
  | 5 => { b with r5 := d }
  | 6 => { b with r6 := d }
  | _ => { b with r7 := d }

end Sys2Proof.Machine
end

