-- ==== Sys2Proof/Machine/Flags.lean ====
section
/-! DEFINITION. The fields of the control, mask and status registers and of the sprite attribute byte
(10_state.md tables of R24, R25 and R28), and every flag the block computes (R26). -/

namespace Sys2Proof.Machine

/-- `control[1:0]`: base nametable (R24). -/
def ctlNametable (c : Byte) : BitVec 2 := c.extractLsb' 0 2

/-- `control[2]`: the PPUDATA address step, 1 or 32 (R24). -/
def ctlIncrement (c : Byte) : Bool := c.getLsbD 2

/-- `control[3]`: pattern table of 8x8 sprites (R24). -/
def ctlSpriteTable (c : Byte) : Bool := c.getLsbD 3

/-- `control[4]`: pattern table of the background (R24). -/
def ctlBackgroundTable (c : Byte) : Bool := c.getLsbD 4

/-- `control[5]`: 8x16 sprites (R24). -/
def ctlSpriteSize (c : Byte) : Bool := c.getLsbD 5

/-- `control[7]`: NMI enable (R24). -/
def ctlNmiEnable (c : Byte) : Bool := c.getLsbD 7

/-- The sprite height: 16 or 8 (R204, R207). -/
def spriteHeight (c : Byte) : Nat := if ctlSpriteSize c then 16 else 8

/-- `mask[0]`: greyscale (R24). -/
def maskGreyscale (m : Byte) : Bool := m.getLsbD 0

/-- `mask[1]`: background shown in columns 0 to 7 (R24). -/
def maskBackgroundLeft (m : Byte) : Bool := m.getLsbD 1

/-- `mask[2]`: sprites shown in columns 0 to 7 (R24). -/
def maskSpritesLeft (m : Byte) : Bool := m.getLsbD 2

/-- `mask[3]`: background enabled (R24). -/
def maskBackground (m : Byte) : Bool := m.getLsbD 3

/-- `mask[4]`: sprites enabled (R24). -/
def maskSprites (m : Byte) : Bool := m.getLsbD 4

/-- `rendering`: background or sprite display enabled (R8, R24). -/
def rendering (m : Byte) : Bool := maskBackground m || maskSprites m

/-- BgVisible(x) (R212). -/
def bgVisible (m : Byte) (x : Nat) : Bool := maskBackground m && (decide (8 ≤ x) || maskBackgroundLeft m)

/-- Whether a sprite pixel may show in column x (R213). -/
def spritesVisible (m : Byte) (x : Nat) : Bool := maskSprites m && (decide (8 ≤ x) || maskSpritesLeft m)

/-- `attributes[1:0]`: sprite palette (R28). -/
def attrPalette (a : Byte) : BitVec 2 := a.extractLsb' 0 2

/-- `attributes[5]`: the sprite lies behind an opaque background (R28). -/
def attrBehind (a : Byte) : Bool := a.getLsbD 5

/-- `attributes[6]`: flip left-right (R28). -/
def attrFlipHorizontal (a : Byte) : Bool := a.getLsbD 6

/-- `attributes[7]`: flip top-bottom (R28). -/
def attrFlipVertical (a : Byte) : Bool := a.getLsbD 7

/-- The byte a PPUSTATUS read returns: the three flags above five drawn bits (R132). -/
def statusByte (st : Status) (draw : Byte) : Byte :=
  BitVec.ofBool st.verticalBlank ++ BitVec.ofBool st.spriteZeroHit ++ BitVec.ofBool st.spriteOverflow
    ++ draw.extractLsb' 0 5

/-- A PPUSTATUS read clears `vertical_blank` (R132). -/
def statusAfterRead (st : Status) : Status := { st with verticalBlank := false }

/-- The start of vertical blank sets `vertical_blank` (R181). -/
def statusSetVerticalBlank (st : Status) : Status := { st with verticalBlank := true }

/-- The pre-render clear: all three flags 0 (R180). -/
def statusCleared : Status := { spriteOverflow := false, spriteZeroHit := false, verticalBlank := false }

/-- `sprite_overflow` after an evaluation that found `found` in-range entries (R204, R205). -/
def statusAfterEvaluation (found : Nat) (st : Status) : Status :=
  { st with spriteOverflow := st.spriteOverflow || decide (8 < found) }

/-- `sprite_0_hit` after a pixel: set by an opaque sprite-0 pixel over an opaque background pixel away
from column 255 (R215). -/
def statusAfterPixel (x bgPat : Nat) (zeroOpaque : Bool) (st : Status) : Status :=
  { st with spriteZeroHit := st.spriteZeroHit || (zeroOpaque && decide (bgPat ≠ 0) && decide (x ≠ 255)) }

/-- Whether the MMC3 hook signals: the counter is 0 after it and the IRQ is enabled (R321). -/
def irqFires (r : Mmc3) : Bool := decide (r.irqCounter = 0#8) && r.irqEnabled

end Sys2Proof.Machine
end

