-- ==== Sys2Proof/Machine/Operands.lean ====
section
/-! DEFINITION. Operand forms: the fields of the scroll registers (10_state.md R20), nametable and palette
addresses (20_memory.md R69, R70), the bank-index tables of the five variants (R245, R270, R273, R276,
R298, R299, R315, R322), window translation (R241, R242, R249), cartridge storage (R63) and the PPU bus
(R66, R67). -/

namespace Sys2Proof.Machine

/-! ### Scroll registers -/

/-- `coarse_x = r[4:0]` (R20). -/
def coarseX (r : Scroll) : BitVec 5 := r.extractLsb' 0 5

/-- `coarse_y = r[9:5]` (R20). -/
def coarseY (r : Scroll) : BitVec 5 := r.extractLsb' 5 5

/-- `nametable = r[11:10]` (R20). -/
def nametable (r : Scroll) : BitVec 2 := r.extractLsb' 10 2

/-- `fine_y = r[14:12]` (R20). -/
def fineY (r : Scroll) : BitVec 3 := r.extractLsb' 12 3

/-- The scroll register of four fields (R20). -/
def scrollOf (fy : BitVec 3) (nt : BitVec 2) (cy cx : BitVec 5) : Scroll := fy ++ nt ++ cy ++ cx

/-- `r[4:0] <- x` -/
def withCoarseX (r : Scroll) (x : BitVec 5) : Scroll := scrollOf (fineY r) (nametable r) (coarseY r) x

/-- `r[9:5] <- y` -/
def withCoarseY (r : Scroll) (y : BitVec 5) : Scroll := scrollOf (fineY r) (nametable r) y (coarseX r)

/-- `r[11:10] <- n` -/
def withNametable (r : Scroll) (n : BitVec 2) : Scroll := scrollOf (fineY r) n (coarseY r) (coarseX r)

/-- `r[14:12] <- y` -/
def withFineY (r : Scroll) (y : BitVec 3) : Scroll := scrollOf y (nametable r) (coarseY r) (coarseX r)

/-- The bus address of `v`: `v[13:0]` (R68). -/
def busAddr (v : Scroll) : PpuAddr := v.extractLsb' 0 14

/-- First PPUADDR write: `t[13:8] <- D[5:0]`, `t[14] <- 0` (R136). -/
def withAddrHigh (t : Scroll) (d : Byte) : Scroll := 0#1 ++ d.extractLsb' 0 6 ++ t.extractLsb' 0 8

/-- Second PPUADDR write: `t[7:0] <- D` (R136). -/
def withAddrLow (t : Scroll) (d : Byte) : Scroll := t.extractLsb' 8 7 ++ d

/-- IncrementV (R138): the step of every PPUDATA access, modulo 2^15. -/
def incrementV (control : Byte) (v : Scroll) : Scroll := v + (if ctlIncrement control then 32#15 else 1#15)

/-- Coarse-x increment (R176). -/
def incrementCoarseX (v : Scroll) : Scroll :=
  if coarseX v = 31#5 then withNametable (withCoarseX v 0#5) (nametable v ^^^ 1#2) else withCoarseX v (coarseX v + 1#5)

/-- Vertical increment (R177): 29 wraps and toggles `v[11]`, 31 wraps without. -/
def incrementY (v : Scroll) : Scroll :=
  if (fineY v).toNat < 7 then withFineY v (fineY v + 1#3)
  else if coarseY v = 29#5 then withNametable (withCoarseY (withFineY v 0#3) 0#5) (nametable v ^^^ 2#2)
  else if coarseY v = 31#5 then withCoarseY (withFineY v 0#3) 0#5
  else withCoarseY (withFineY v 0#3) (coarseY v + 1#5)

/-- Horizontal copy (R178): coarse_x and nametable_x from `t`. -/
def copyHorizontal (v t : Scroll) : Scroll := (v &&& ~~~0x041F#15) ||| (t &&& 0x041F#15)

/-- Vertical copy (R179): fine_y, nametable_y and coarse_y from `t`. -/
def copyVertical (v t : Scroll) : Scroll := (v &&& ~~~0x7BE0#15) ||| (t &&& 0x7BE0#15)

/-! ### Nametable and palette addresses -/

/-- The physical page of logical nametable `q` (R69). -/
def ntPage (m : Mirroring) (q : Nat) : Nat :=
  match m with
  | .horizontal => q / 2
  | .vertical => q % 2
  | .oneScreenLower => 0
  | .oneScreenUpper => 1

/-- NtIndex(a) (R69). -/
def ntIndex (m : Mirroring) (a : PpuAddr) : Nat :=
  ntPage m ((a.toNat - 0x2000) % 0x1000 / 0x400) * 0x400 + (a.toNat - 0x2000) % 0x1000 % 0x400

/-- PalIndex(a) of `a[4:0]` (R70). -/
def palFold (i : BitVec 5) : BitVec 5 := if i &&& 0x13#5 = 0x10#5 then i &&& 0x0F#5 else i

/-- PalIndex(a) (R70). -/
def palIndex (a : PpuAddr) : Nat := (palFold (a.extractLsb' 0 5)).toNat

/-! ### Bank-index tables -/

/-- Unit `u` as the pair `(u div k, (u mod k) * unit size)` (R245). -/
def unitWindow (k size u : Nat) : Window := ⟨u / k, u % k * size⟩

/-- A 16 KB PRG unit, modulo P (R245). -/
def prgUnit16 (p u : Nat) : Window := unitWindow 1 0x4000 (u % p)

/-- An 8 KB PRG unit, modulo 2P (R245). -/
def prgUnit8 (p u : Nat) : Window := unitWindow 2 0x2000 (u % (2 * p))

/-- An 8 KB CHR unit, modulo C (R245). -/
def chrUnit8 (c u : Nat) : Window := unitWindow 1 0x2000 (u % c)

/-- A 4 KB CHR unit, modulo 2C (R245). -/
def chrUnit4 (c u : Nat) : Window := unitWindow 2 0x1000 (u % (2 * c))

/-- A 1 KB CHR unit, modulo 8C (R245). -/
def chrUnit1 (c u : Nat) : Window := unitWindow 8 0x400 (u % (8 * c))

/-- NROM and CNROM: the first and the last 16 KB (R270, R276). -/
def fixedPrgTable (p : Nat) : List Window := [prgUnit16 p 0, prgUnit16 p (p - 1)]

/-- UXROM: the selected 16 KB and the last (R273). -/
def uxromPrgTable (sel : BitVec 4) (p : Nat) : List Window := [prgUnit16 p sel.toNat, prgUnit16 p (p - 1)]

/-- `prg_rom_mode = control[3:2]` of MMC1 (R290). -/
def mmc1PrgMode (r : Mmc1) : Nat := (r.control.extractLsb' 2 2).toNat

/-- `chr_rom_mode = control[4]` of MMC1 (R290). -/
def mmc1ChrMode (r : Mmc1) : Bool := r.control.getLsbD 4

/-- MMC1 PRG table (R298). -/
def mmc1PrgTable (r : Mmc1) (p : Nat) : List Window :=
  match mmc1PrgMode r with
  | 2 => [prgUnit16 p 0, prgUnit16 p r.prgBank.toNat]
  | 3 => [prgUnit16 p r.prgBank.toNat, prgUnit16 p (p - 1)]
  | _ => [prgUnit16 p (r.prgBank &&& 0x0E#4).toNat, prgUnit16 p ((r.prgBank &&& 0x0E#4).toNat + 1)]

/-- MMC1 CHR table (R299). -/
def mmc1ChrTable (r : Mmc1) (c : Nat) : List Window :=
  if mmc1ChrMode r then [chrUnit4 c r.chrBank0.toNat, chrUnit4 c r.chrBank1.toNat]
  else [chrUnit4 c (r.chrBank0 &&& 0x1E#5).toNat, chrUnit4 c ((r.chrBank0 &&& 0x1E#5).toNat + 1)]

/-- `prg_rom_mode = bank_select[6]` of MMC3 (R310). -/
def mmc3PrgMode (r : Mmc3) : Bool := r.bankSelect.getLsbD 6

/-- `chr_rom_mode = bank_select[7]` of MMC3 (R310). -/
def mmc3ChrMode (r : Mmc3) : Bool := r.bankSelect.getLsbD 7

/-- The register the next bank-data write sets: `bank_select[2:0]` (R310, R312). -/
def mmc3Target (r : Mmc3) : BitVec 3 := r.bankSelect.extractLsb' 0 3

/-- MMC3 PRG table (R315). -/
def mmc3PrgTable (r : Mmc3) (p : Nat) : List Window :=
  let r6 := prgUnit8 p r.bankData.r6.toNat
  let r7 := prgUnit8 p r.bankData.r7.toNat
  let secondLast := prgUnit8 p (2 * p - 2)
  let last := prgUnit8 p (2 * p - 1)
  if mmc3PrgMode r then [secondLast, r7, r6, last] else [r6, r7, secondLast, last]

/-- The windows R0 and R1 feed, 2 KB each with bit 0 ignored (R322). -/
def mmc3ChrPairs (b : BankData) (c : Nat) : List Window :=
  [chrUnit1 c (b.r0 &&& 0xFE#8).toNat, chrUnit1 c (b.r0 ||| 1#8).toNat,
   chrUnit1 c (b.r1 &&& 0xFE#8).toNat, chrUnit1 c (b.r1 ||| 1#8).toNat]

/-- The windows R2 to R5 feed, 1 KB each (R322). -/
def mmc3ChrSingles (b : BankData) (c : Nat) : List Window :=
  [chrUnit1 c b.r2.toNat, chrUnit1 c b.r3.toNat, chrUnit1 c b.r4.toNat, chrUnit1 c b.r5.toNat]

/-- MMC3 CHR table (R322). -/
def mmc3ChrTable (r : Mmc3) (c : Nat) : List Window :=
  if mmc3ChrMode r then mmc3ChrSingles r.bankData c ++ mmc3ChrPairs r.bankData c
  else mmc3ChrPairs r.bankData c ++ mmc3ChrSingles r.bankData c

/-- `prg_table` of a variant's registers and P (R245). -/
def prgTableOf (m : Mapper) (p : Nat) : List Window :=
  match m with
  | .nrom => fixedPrgTable p
  | .uxrom sel => uxromPrgTable sel p
  | .cnrom _ => fixedPrgTable p
  | .mmc1 r => mmc1PrgTable r p
  | .mmc3 r => mmc3PrgTable r p

/-- `chr_table` of a variant's registers and C (R245). -/
def chrTableOf (m : Mapper) (c : Nat) : List Window :=
  match m with
  | .nrom => [chrUnit8 c 0]
  | .uxrom _ => [chrUnit8 c 0]
  | .cnrom sel => [chrUnit8 c sel.toNat]
  | .mmc1 r => mmc1ChrTable r c
  | .mmc3 r => mmc3ChrTable r c

/-- The mode of MMC1's `control[1:0]` (R290, R297). -/
def mmc1Mirroring (r : Mmc1) : Mirroring :=
  match (r.control.extractLsb' 0 2).toNat with
  | 0 => .oneScreenLower
  | 1 => .oneScreenUpper
  | 2 => .vertical
  | _ => .horizontal

/-- The mode of MMC3's `mirroring_reg` (R320). -/
def mmc3Mirroring (r : Mmc3) : Mirroring := if r.mirroringReg then .horizontal else .vertical

/-- HDR_MIRRORING as a mode (R31, R250). -/
def headerMirroring (vertical : Bool) : Mirroring := if vertical then .vertical else .horizontal

/-- `mirroring(cartridge)` (R255). -/
def mirroringOf (m : Mapper) (hdrVertical : Bool) : Mirroring :=
  match m with
  | .nrom => headerMirroring hdrVertical
  | .uxrom _ => headerMirroring hdrVertical
  | .cnrom _ => headerMirroring hdrVertical
  | .mmc1 r => mmc1Mirroring r
  | .mmc3 r => mmc3Mirroring r

/-- Whether a recompute of the variant pushes its mode to the bus (R255, R297, R320). -/
def pushesMirroring : Mapper → Bool
  | .nrom => false
  | .uxrom _ => false
  | .cnrom _ => false
  | .mmc1 _ => true
  | .mmc3 _ => true

/-- The table recompute after a mapper write, with the mirroring push of MMC1 and MMC3 (R245, R297, R320). -/
def recompute (s : State) : State :=
  { s with
    prgTable := prgTableOf s.mapper s.cart.prgBanks
    chrTable := chrTableOf s.mapper (chrBanks s.cart)
    mirroring := if pushesMirroring s.mapper then mirroringOf s.mapper s.cart.hdrVertical else s.mirroring }

/-- New mapper registers and the recompute that follows in the same transaction (R245). -/
def updateMapper (m : Mapper) (s : State) : State := recompute (setMapper m s)

/-! ### Window translation and cartridge storage -/

/-- np: the number of PRG windows (R32). -/
def prgWindows : Mapper → Nat
  | .nrom => 2
  | .uxrom _ => 2
  | .cnrom _ => 2
  | .mmc1 _ => 2
  | .mmc3 _ => 4

/-- nc: the number of CHR windows (R32). -/
def chrWindows : Mapper → Nat
  | .nrom => 1
  | .uxrom _ => 1
  | .cnrom _ => 1
  | .mmc1 _ => 2
  | .mmc3 _ => 8

/-- The pair (bank, offset) of window offset `off` in a table whose windows are `wsize` bytes; `a` is the
address a fault records where the table holds no such window (R75, R342; DESIGN CHOICE, safe, log entry 13). -/
def translate (table : List Window) (wsize off a : Nat) : Except Fault (Nat × Nat) :=
  match table[off / wsize]? with
  | some w => .ok (w.bank, w.offset + off % wsize)
  | none => .error (.unsupportedMapperAddress a)

/-- `rom_program(A)`: the bank and offset a CPU read of A reads (R241, R249, R358). The spec gives it for A in
0x8000..0xFFFF only; below, it fails with UnsupportedMapperAddress: DESIGN CHOICE, safe, log entry 21. -/
def romProgram (s : State) (a : Addr) : Except Fault (Nat × Nat) :=
  if a.toNat < 0x8000 then .error (.unsupportedMapperAddress a.toNat)
  else translate s.prgTable (0x8000 / prgWindows s.mapper) (a.toNat - 0x8000) a.toNat

/-- `rom_character(a)`: the bank and offset a PPU-bus access of a reaches (R242, R249, R358). The spec gives it for a
in 0x0000..0x1FFF only; above, no window of a session's table holds a, and it fails with UnsupportedMapperAddress:
DESIGN CHOICE, safe, log entry 21. -/
def romCharacter (s : State) (a : Nat) : Except Fault (Nat × Nat) :=
  translate s.chrTable (0x2000 / chrWindows s.mapper) a a

/-- A read of byte `j` of bank `b` of a storage of `count` banks of `size` bytes (R63, R343). -/
def storageRead (m : Memory) (count size b j : Nat) : Except Fault Byte :=
  if b < count then .ok (memRead m (b * size + j)) else .error (.invalidBankIndex b)

/-- A write of byte `j` of bank `b` (R63, R343). -/
def storageWrite (m : Memory) (count size b j : Nat) (d : Byte) : Except Fault Memory :=
  if b < count then .ok (memWrite m (b * size + j) d) else .error (.invalidBankIndex b)

/-- `read_rom_program` (R241). -/
def prgRead (s : State) (a : Addr) : Except Fault Byte :=
  match romProgram s a with
  | .ok (b, j) => storageRead s.cart.prgRom s.cart.prgBanks 0x4000 b j
  | .error f => .error f

/-- `read_rom_character` (R242). -/
def chrRead (s : State) (a : Nat) : Except Fault Byte :=
  match romCharacter s a with
  | .ok (b, j) => storageRead s.cart.chr (chrBanks s.cart) 0x2000 b j
  | .error f => .error f

/-- Stores a byte of CHR storage (R243). -/
def chrStore (s : State) (b j : Nat) (d : Byte) : Except Fault State :=
  match storageWrite s.cart.chr (chrBanks s.cart) 0x2000 b j d with
  | .ok m => .ok (setCart { s.cart with chr := m } s)
  | .error f => .error f

/-- `write_rom_character` (R243): a store on a CHR RAM board, and what P_CHR_ROM_WRITE says on CHR ROM. -/
def chrWrite (a : Nat) (d : Byte) (s : State) : Except Fault State :=
  match romCharacter s a with
  | .ok (b, j) =>
    if s.cart.chrRomBanks = 0 then chrStore s b j d
    else
      match s.params.chrRomWrite with
      | .store => chrStore s b j d
      | .ignore => .ok s
      | .fault => .error (.unsupportedMapperAddress a)
  | .error f => .error f

/-- PRG RAM offset of a CPU address of the window 0x6000..0x7FFF (R244). -/
def ramOffset (a : Addr) : Nat := a.toNat - 0x6000

/-- `read_ram`: bank 0 (R244). -/
def ramRead (s : State) (a : Addr) : Except Fault Byte :=
  storageRead s.cart.prgRam s.cart.ramBanks 0x2000 0 (ramOffset a)

/-- `write_ram`: bank 0 (R244). -/
def ramWrite (a : Addr) (d : Byte) (s : State) : Except Fault State :=
  match storageWrite s.cart.prgRam s.cart.ramBanks 0x2000 0 (ramOffset a) d with
  | .ok m => .ok (setCart { s.cart with prgRam := m } s)
  | .error f => .error f

/-- Whether MMC3's RAM-protect register gates the RAM window, and if so with which value (R323). -/
def ramGate (s : State) : Option Byte :=
  match s.mapper with
  | .nrom => none
  | .uxrom _ => none
  | .cnrom _ => none
  | .mmc1 _ => none
  | .mmc3 r =>
    match s.params.mmc3RamProtect with
    | .ignored => none
    | .enforced => some r.ramProtect

/-- The RAM window answers reads: not gated, or `ram_protect[7] = 1` (R323). -/
def ramReadable (s : State) : Bool :=
  match ramGate s with
  | some p => p.getLsbD 7
  | none => true

/-- The RAM window takes writes: not gated, or `ram_protect[7] = 1` and `ram_protect[6] = 0` (R323). -/
def ramWritable (s : State) : Bool :=
  match ramGate s with
  | some p => p.getLsbD 7 && !p.getLsbD 6
  | none => true

/-! ### The PPU bus -/

/-- A nametable read (R81). -/
def ntRead (s : State) (a : PpuAddr) : Byte := memRead s.ppu.ntMem (ntIndex s.mirroring a)

/-- A palette read (R83). -/
def palRead (s : State) (a : PpuAddr) : Byte := memRead s.ppu.palMem (palIndex a)

/-- A nametable write (R82). -/
def ntWrite (a : PpuAddr) (d : Byte) (s : State) : State :=
  setPpu { s.ppu with ntMem := memWrite s.ppu.ntMem (ntIndex s.mirroring a) d } s

/-- A palette write (R84). -/
def palWrite (a : PpuAddr) (d : Byte) (s : State) : State :=
  setPpu { s.ppu with palMem := memWrite s.ppu.palMem (palIndex a) d } s

/-- PpuBusRead(a) (R66). -/
def ppuBusRead (s : State) (a : PpuAddr) : Except Fault Byte :=
  if a.toNat ≤ 0x1FFF then chrRead s a.toNat
  else if a.toNat ≤ 0x3EFF then .ok (ntRead s a)
  else .ok (palRead s a)

/-- PpuBusWrite(a, D) (R67). -/
def ppuBusWrite (a : PpuAddr) (d : Byte) (s : State) : Except Fault State :=
  if a.toNat ≤ 0x1FFF then chrWrite a.toNat d s
  else if a.toNat ≤ 0x3EFF then .ok (ntWrite a d s)
  else .ok (palWrite a d s)

end Sys2Proof.Machine
end

