-- ==== Sys2Proof/Machine/Discrete.lean ====
section
/-! DEFINITION. NROM, UXROM and CNROM (44_mapper_discrete.md). A row of a variant that is not the session's has no
meaning: every word a session issues carries the session's MAPPER_ID (R103). -/

namespace Sys2Proof.Machine

/-- A row of variant `id`: refused in a session of another variant (R103). -/
def forVariant (id : Byte) (s : State) (o : Host.Outcome State Fault Refusal) : Host.Outcome State Fault Refusal :=
  if s.mapper.id = id then o else .refused (.otherMapper id)

/-- NROM_PRG_W (R271): always UnsupportedMapperAddress. -/
def execNromPrgW (a : Addr) (_d : Byte) (s : State) : Host.Outcome State Fault Refusal :=
  forVariant 0#8 s (raise (.unsupportedMapperAddress a.toNat))

/-- NROM_HOOK (R272): nothing changes. -/
def execNromHook (s : State) : Host.Outcome State Fault Refusal := forVariant 0#8 s (.next (complete s))

/-- UXROM_BANK_W (R274): `prg_select <- D[3:0]`, recompute. -/
def execUxromBankW (_a : Addr) (d : Byte) (s : State) : Host.Outcome State Fault Refusal :=
  forVariant 2#8 s (.next (complete (updateMapper (.uxrom (d.extractLsb' 0 4)) s)))

/-- UXROM_HOOK (R275): nothing changes. -/
def execUxromHook (s : State) : Host.Outcome State Fault Refusal := forVariant 2#8 s (.next (complete s))

/-- CNROM_BANK_W (R277): `chr_select <- D[1:0]`, recompute. -/
def execCnromBankW (_a : Addr) (d : Byte) (s : State) : Host.Outcome State Fault Refusal :=
  forVariant 3#8 s (.next (complete (updateMapper (.cnrom (d.extractLsb' 0 2)) s)))

/-- CNROM_HOOK (R278): nothing changes. -/
def execCnromHook (s : State) : Host.Outcome State Fault Refusal := forVariant 3#8 s (.next (complete s))

end Sys2Proof.Machine
end

