-- ==== Sys2Proof/Machine/Mmc1.lean ====
section
/-! DEFINITION. SXROM / MMC1 (45_mapper_mmc1.md): the serial write protocol and its four rows. -/

namespace Sys2Proof.Machine

/-- A row of MMC1 in a session of MMC1; refused in another (R103). -/
def onMmc1 (s : State) (k : Mmc1 → State) : Host.Outcome State Fault Refusal :=
  match s.mapper with
  | .mmc1 r => .next (complete (k r))
  | .nrom => .refused (.otherMapper 1#8)
  | .uxrom _ => .refused (.otherMapper 1#8)
  | .cnrom _ => .refused (.otherMapper 1#8)
  | .mmc3 _ => .refused (.otherMapper 1#8)

/-- Mmc1ResetBit (R292): the shift state cleared, `prg_rom_mode <- 3`. -/
def mmc1ResetBit (r : Mmc1) : Mmc1 :=
  { r with shiftValue := 0, shiftCount := 0, control := r.control ||| 0x0C#5 }

/-- The shift register with the new bit `D[0]` entering at bit 4 (R291). -/
def mmc1Shifted (r : Mmc1) (d : Byte) : BitVec 5 :=
  (r.shiftValue >>> 1) ||| ((BitVec.ofBool (d.getLsbD 0)).setWidth 5 <<< 4)

/-- The commit of the 5th bit into the register of `(A >> 13) AND 3`, with the shift state cleared (R291). -/
def mmc1Commit (r : Mmc1) (a : Addr) (value : BitVec 5) : Mmc1 :=
  match ((a >>> 13) &&& 3#16).toNat with
  | 0 => { r with control := value, shiftValue := 0, shiftCount := 0 }
  | 1 => { r with chrBank0 := value, shiftValue := 0, shiftCount := 0 }
  | 2 => { r with chrBank1 := value, shiftValue := 0, shiftCount := 0 }
  | _ => { r with prgBank := value.setWidth 4, shiftValue := 0, shiftCount := 0 }

/-- Mmc1Write(A, D) (R291): a reset-bit write, an uncommitted bit, or the commit of the 5th. No recompute follows an
uncommitted bit: DEDUCED, safe, log entry 12. -/
def mmc1Write (a : Addr) (d : Byte) (s : State) (r : Mmc1) : State :=
  if d.getLsbD 7 then updateMapper (.mmc1 (mmc1ResetBit r)) s
  else if r.shiftCount < 4 then
    setMapper (.mmc1 { r with shiftValue := mmc1Shifted r d, shiftCount := r.shiftCount + 1 }) s
  else updateMapper (.mmc1 (mmc1Commit r a (mmc1Shifted r d))) s

/-- MMC1_CONTROL_W (R293). -/
def execMmc1ControlW (a : Addr) (d : Byte) (s : State) : Host.Outcome State Fault Refusal :=
  onMmc1 s (mmc1Write a d s)

/-- MMC1_CHR0_W (R294). -/
def execMmc1Chr0W (a : Addr) (d : Byte) (s : State) : Host.Outcome State Fault Refusal :=
  onMmc1 s (mmc1Write a d s)

/-- MMC1_CHR1_W (R295). -/
def execMmc1Chr1W (a : Addr) (d : Byte) (s : State) : Host.Outcome State Fault Refusal :=
  onMmc1 s (mmc1Write a d s)

/-- MMC1_PRG_W (R296). -/
def execMmc1PrgW (a : Addr) (d : Byte) (s : State) : Host.Outcome State Fault Refusal :=
  onMmc1 s (mmc1Write a d s)

/-- MMC1_HOOK (R300): nothing changes. -/
def execMmc1Hook (s : State) : Host.Outcome State Fault Refusal := onMmc1 s (fun _ => s)

end Sys2Proof.Machine
end

