-- ==== Sys2Proof/Machine/Mmc3.lean ====
section
/-! DEFINITION. TxROM / MMC3 (46_mapper_mmc3.md): the eight ports and the IRQ counter. Every port write is
followed by the recompute of R245 (DEDUCED, safe, log entry 12). -/

namespace Sys2Proof.Machine

/-- A row of MMC3 in a session of MMC3; refused in another (R103). -/
def onMmc3 (s : State) (k : Mmc3 → State) : Host.Outcome State Fault Refusal :=
  match s.mapper with
  | .mmc3 r => .next (complete (k r))
  | .nrom => .refused (.otherMapper 4#8)
  | .uxrom _ => .refused (.otherMapper 4#8)
  | .cnrom _ => .refused (.otherMapper 4#8)
  | .mmc1 _ => .refused (.otherMapper 4#8)

/-- MMC3_BANK_SELECT_W (R311): `bank_select <- D`. -/
def execMmc3BankSelectW (_a : Addr) (d : Byte) (s : State) : Host.Outcome State Fault Refusal :=
  onMmc3 s (fun r => updateMapper (.mmc3 { r with bankSelect := d }) s)

/-- MMC3_BANK_DATA_W (R312): `bank_data[bank_select[2:0]] <- D`. -/
def execMmc3BankDataW (_a : Addr) (d : Byte) (s : State) : Host.Outcome State Fault Refusal :=
  onMmc3 s (fun r => updateMapper (.mmc3 { r with bankData := bankDataSet r.bankData (mmc3Target r) d }) s)

/-- MMC3_MIRRORING_W (R313): `mirroring_reg <- D[0]`. -/
def execMmc3MirroringW (_a : Addr) (d : Byte) (s : State) : Host.Outcome State Fault Refusal :=
  onMmc3 s (fun r => updateMapper (.mmc3 { r with mirroringReg := d.getLsbD 0 }) s)

/-- MMC3_RAM_PROTECT_W (R314): `ram_protect <- D`. -/
def execMmc3RamProtectW (_a : Addr) (d : Byte) (s : State) : Host.Outcome State Fault Refusal :=
  onMmc3 s (fun r => updateMapper (.mmc3 { r with ramProtect := d }) s)

/-- MMC3_IRQ_LATCH_W (R316): `irq_period <- D`. -/
def execMmc3IrqLatchW (_a : Addr) (d : Byte) (s : State) : Host.Outcome State Fault Refusal :=
  onMmc3 s (fun r => updateMapper (.mmc3 { r with irqPeriod := d }) s)

/-- MMC3_IRQ_RELOAD_W (R317): `irq_counter <- 0`. -/
def execMmc3IrqReloadW (_a : Addr) (_d : Byte) (s : State) : Host.Outcome State Fault Refusal :=
  onMmc3 s (fun r => updateMapper (.mmc3 { r with irqCounter := 0#8 }) s)

/-- MMC3_IRQ_DISABLE_W (R318): `irq_enabled <- 0`. -/
def execMmc3IrqDisableW (_a : Addr) (_d : Byte) (s : State) : Host.Outcome State Fault Refusal :=
  onMmc3 s (fun r => updateMapper (.mmc3 { r with irqEnabled := false }) s)

/-- MMC3_IRQ_ENABLE_W (R319): `irq_enabled <- 1`. -/
def execMmc3IrqEnableW (_a : Addr) (_d : Byte) (s : State) : Host.Outcome State Fault Refusal :=
  onMmc3 s (fun r => updateMapper (.mmc3 { r with irqEnabled := true }) s)

/-- The counter clock of Mmc3Hook (R321): a counter of 0 reloads, any other decrements. -/
def clockIrq (r : Mmc3) : Mmc3 :=
  { r with irqCounter := if r.irqCounter = 0#8 then r.irqPeriod else r.irqCounter - 1#8 }

/-- Mmc3Hook (R321): the clock, and `irq` when the counter is then 0 and the IRQ is enabled. -/
def mmc3Hook (s : State) (r : Mmc3) : State :=
  if irqFires (clockIrq r) then emit .irq (setMapper (.mmc3 (clockIrq r)) s)
  else setMapper (.mmc3 (clockIrq r)) s

/-- MMC3_HOOK (R321). -/
def execMmc3Hook (s : State) : Host.Outcome State Fault Refusal := onMmc3 s (mmc3Hook s)

/-- The active variant's `signal_interrupt` (R246): only MMC3's does anything (R272, R275, R278, R300, R321). -/
def runHook (s : State) : State :=
  match s.mapper with
  | .nrom => s
  | .uxrom _ => s
  | .cnrom _ => s
  | .mmc1 _ => s
  | .mmc3 r => mmc3Hook s r

end Sys2Proof.Machine
end

