-- ==== Sys2Proof/Machine/Ports.lean ====
section
/-! DEFINITION. The eight PPU ports (40_ppu_ports.md). A port is chosen by `addr[2:0]` in the decoder (R143),
so the address operand has no further effect. -/

namespace Sys2Proof.Machine

/-! ### What a port access does -/

/-- PPUCTRL write (R130): the register, and its nametable field into `t`. -/
def writeControl (d : Byte) (s : State) : State :=
  setPpu { s.ppu with control := d, t := withNametable s.ppu.t (ctlNametable d) } s

/-- PPUMASK write (R131). -/
def writeMask (d : Byte) (s : State) : State := setPpu { s.ppu with mask := d } s

/-- OAMADDR write (R133). -/
def writeOamAddr (d : Byte) (s : State) : State := setPpu { s.ppu with oamAddr := d } s

/-- OAMDATA write (R134): the byte, then the address plus one, modulo 256. -/
def writeOamData (d : Byte) (s : State) : State :=
  setPpu { s.ppu with oam := memWrite s.ppu.oam s.ppu.oamAddr.toNat d, oamAddr := s.ppu.oamAddr + 1#8 } s

/-- The scroll registers after a PPUSCROLL write (R135): X first, then Y; the toggle flips. -/
def scrollWritten (d : Byte) (p : Ppu) : Ppu :=
  if p.w then
    { p with t := withCoarseY (withFineY p.t (d.extractLsb' 0 3)) (d.extractLsb' 3 5), w := false }
  else
    { p with fineX := d.extractLsb' 0 3, t := withCoarseX p.t (d.extractLsb' 3 5), w := true }

/-- PPUSCROLL write (R135). -/
def writeScroll (d : Byte) (s : State) : State := setPpu (scrollWritten d s.ppu) s

/-- The address registers after a PPUADDR write (R136): high byte first, then low byte and `v <- t`; the
toggle flips. -/
def addrWritten (d : Byte) (p : Ppu) : Ppu :=
  if p.w then { p with t := withAddrLow p.t d, v := withAddrLow p.t d, w := false }
  else { p with t := withAddrHigh p.t d, w := true }

/-- PPUADDR write (R136). -/
def writeAddr (d : Byte) (s : State) : State := setPpu (addrWritten d s.ppu) s

/-- IncrementV() (R138). -/
def stepV (s : State) : State := setPpu { s.ppu with v := incrementV s.ppu.control s.ppu.v } s

/-- PPUDATA write (R137): a fault of the bus write comes before `v` moves. -/
def writeData (d : Byte) (s : State) : Except Fault State :=
  match ppuBusWrite (busAddr s.ppu.v) d s with
  | .ok s' => .ok (stepV s')
  | .error f => .error f

/-- A read of a write-only port (R140): `draw()`, nothing else changes. -/
def readOpen (s : State) : State := tookDraw (returnByte (drawn s) s)

/-- PPUSTATUS read (R132). -/
def readStatus (s : State) : State :=
  tookDraw (returnByte (statusByte s.ppu.status (drawn s))
    (setPpu { s.ppu with status := statusAfterRead s.ppu.status, w := false } s))

/-- OAMDATA read (R142). -/
def readOamData (s : State) : State := returnByte (memRead s.ppu.oam s.ppu.oamAddr.toNat) s

/-- What a palette read leaves in the read buffer (R139): the value read, the nametable byte 0x1000 below
(0x2F00..0x2FFF), or the old buffer. -/
def bufferAfterPalette (s : State) (a : PpuAddr) : Byte :=
  match s.params.palReadBuffer with
  | .paletteValue => palRead s a
  | .underlying => ntRead s (a - 0x1000#14)
  | .unchanged => s.ppu.readBuffer

/-- PPUDATA read (R139): delayed up to 0x3EFF, immediate in the palette region; then IncrementV. -/
def readData (s : State) : Except Fault State :=
  if (busAddr s.ppu.v).toNat ≤ 0x3EFF then
    match ppuBusRead s (busAddr s.ppu.v) with
    | .ok b => .ok (returnByte s.ppu.readBuffer (stepV (setPpu { s.ppu with readBuffer := b } s)))
    | .error f => .error f
  else
    .ok (returnByte (palRead s (busAddr s.ppu.v))
      (stepV (setPpu { s.ppu with readBuffer := bufferAfterPalette s (busAddr s.ppu.v) } s)))

/-! ### The port function over any index (R143, R341) -/

/-- A write to port `p`: UnsupportedPpuPort for an index of 8 or more (R143). -/
def portWrite (p : Nat) (d : Byte) (s : State) : Except Fault State :=
  match p with
  | 0 => .ok (complete (writeControl d s))
  | 1 => .ok (complete (writeMask d s))
  | 2 => .ok (complete s)
  | 3 => .ok (complete (writeOamAddr d s))
  | 4 => .ok (complete (writeOamData d s))
  | 5 => .ok (complete (writeScroll d s))
  | 6 => .ok (complete (writeAddr d s))
  | 7 => (writeData d s).map complete
  | p => .error (.unsupportedPpuPort p)

/-- A read of port `p`: UnsupportedPpuPort for an index of 8 or more (R143). -/
def portRead (p : Nat) (s : State) : Except Fault State :=
  match p with
  | 0 => .ok (readOpen s)
  | 1 => .ok (readOpen s)
  | 2 => .ok (readStatus s)
  | 3 => .ok (readOpen s)
  | 4 => .ok (readOamData s)
  | 5 => .ok (readOpen s)
  | 6 => .ok (readOpen s)
  | 7 => readData s
  | p => .error (.unsupportedPpuPort p)

/-! ### The meanings -/

/-- PPUCTRL_W (R130). -/
def execPpuCtrlW (_a : Addr) (d : Byte) (s : State) : Host.Outcome State Fault Refusal :=
  .next (complete (writeControl d s))

/-- PPUMASK_W (R131). -/
def execPpuMaskW (_a : Addr) (d : Byte) (s : State) : Host.Outcome State Fault Refusal :=
  .next (complete (writeMask d s))

/-- PPUSTATUS_W (R141): nothing changes. -/
def execPpuStatusW (_a : Addr) (_d : Byte) (s : State) : Host.Outcome State Fault Refusal :=
  .next (complete s)

/-- OAMADDR_W (R133). -/
def execOamAddrW (_a : Addr) (d : Byte) (s : State) : Host.Outcome State Fault Refusal :=
  .next (complete (writeOamAddr d s))

/-- OAMDATA_W (R134). -/
def execOamDataW (_a : Addr) (d : Byte) (s : State) : Host.Outcome State Fault Refusal :=
  .next (complete (writeOamData d s))

/-- PPUSCROLL_W (R135). -/
def execPpuScrollW (_a : Addr) (d : Byte) (s : State) : Host.Outcome State Fault Refusal :=
  .next (complete (writeScroll d s))

/-- PPUADDR_W (R136). -/
def execPpuAddrW (_a : Addr) (d : Byte) (s : State) : Host.Outcome State Fault Refusal :=
  .next (complete (writeAddr d s))

/-- PPUDATA_W (R137). -/
def execPpuDataW (_a : Addr) (d : Byte) (s : State) : Host.Outcome State Fault Refusal :=
  settle ((writeData d s).map complete)

/-- PPUCTRL_R (R144, R140). -/
def execPpuCtrlR (_a : Addr) (s : State) : Host.Outcome State Fault Refusal := .next (readOpen s)

/-- PPUMASK_R (R145, R140). -/
def execPpuMaskR (_a : Addr) (s : State) : Host.Outcome State Fault Refusal := .next (readOpen s)

/-- PPUSTATUS_R (R132). -/
def execPpuStatusR (_a : Addr) (s : State) : Host.Outcome State Fault Refusal := .next (readStatus s)

/-- OAMADDR_R (R146, R140). -/
def execOamAddrR (_a : Addr) (s : State) : Host.Outcome State Fault Refusal := .next (readOpen s)

/-- OAMDATA_R (R142). -/
def execOamDataR (_a : Addr) (s : State) : Host.Outcome State Fault Refusal := .next (readOamData s)

/-- PPUSCROLL_R (R147, R140): the toggle is not flipped. -/
def execPpuScrollR (_a : Addr) (s : State) : Host.Outcome State Fault Refusal := .next (readOpen s)

/-- PPUADDR_R (R148, R140): the toggle is not flipped. -/
def execPpuAddrR (_a : Addr) (s : State) : Host.Outcome State Fault Refusal := .next (readOpen s)

/-- PPUDATA_R (R139). -/
def execPpuDataR (_a : Addr) (s : State) : Host.Outcome State Fault Refusal := settle (readData s)

end Sys2Proof.Machine
end

