-- ==== Sys2Proof/Machine/Reset.lean ====
section
/-! DEFINITION. RESET (70_reset_and_hazards.md R371, R372) and mapper selection (43_mapper_common.md R240, R253). -/

namespace Sys2Proof.Machine

/-- MMC1 after reset (R290, R371). -/
def mmc1AtReset (r : ResetMmc1) : Mmc1 :=
  { shiftValue := 0, shiftCount := 0, control := r.control, chrBank0 := r.chrBank0, chrBank1 := r.chrBank1
    prgBank := r.prgBank }

/-- MMC3 after reset (R310, R371). -/
def mmc3AtReset (r : ResetMmc3) : Mmc3 :=
  { bankSelect := r.bankSelect, bankData := r.bankData, mirroringReg := r.mirroringReg, ramProtect := r.ramProtect
    irqPeriod := r.irqPeriod, irqCounter := 0, irqEnabled := false }

/-- The variant with its registers reset (R371). -/
def mapperAtReset (p : Params) : Mapper → Mapper
  | .nrom => .nrom
  | .uxrom _ => .uxrom 0
  | .cnrom _ => .cnrom 0
  | .mmc1 _ => .mmc1 (mmc1AtReset p.resetMmc1)
  | .mmc3 _ => .mmc3 (mmc3AtReset p.resetMmc3)

/-- The variant a MAPPER_ID selects; none outside 0..4 (R240, R253). The spec gives its registers no value before the
first RESET; here they hold their reset values: DESIGN CHOICE, safe, log entry 24. -/
def selectMapper (id : Byte) (p : Params) : Option Mapper :=
  match id.toNat with
  | 0 => some .nrom
  | 1 => some (.mmc1 (mmc1AtReset p.resetMmc1))
  | 2 => some (.uxrom 0)
  | 3 => some (.cnrom 0)
  | 4 => some (.mmc3 (mmc3AtReset p.resetMmc3))
  | _ => none

/-- The state after a RESET that leaves the variant `m`: the PPU all zeroed, the tables recomputed, the bus
mirroring set; cartridge storage, parameters and the event trace are kept (R371, R372). -/
def resetWith (m : Mapper) (s : State) : State :=
  { s with
    ppu := Ppu.zero
    mapper := m
    prgTable := prgTableOf m s.cart.prgBanks
    chrTable := chrTableOf m (chrBanks s.cart)
    mirroring := mirroringOf m s.cart.hdrVertical
    started := true }

/-- Reset() (R371). -/
def resetBlock (s : State) : State := resetWith (mapperAtReset s.params s.mapper) s

/-- RESET (R371). -/
def execReset (s : State) : Host.Outcome State Fault Refusal := .next (complete (resetBlock s))

end Sys2Proof.Machine
end

