-- ==== Sys2Proof/Machine/Storage.lean ====
section
/-! DEFINITION. The mapper-independent cartridge accesses PRG_R, RAM_R and RAM_W (43_mapper_common.md) and
the six accesses of the PPU bus (R242, R243; 20_memory.md R81 to R84). The host may issue the latter as the PPU
does (60_exceptions.md R354; DEDUCED, safe, log entry 11). -/

namespace Sys2Proof.Machine

/-- A PPU address of a PPU-space word: its low 14 bits (R66). -/
def ppuAddrOf (a : Addr) : PpuAddr := a.setWidth 14

/-- The outcome of a read that may raise. -/
def settleByte (r : Except Fault Byte) (s : State) : Host.Outcome State Fault Refusal :=
  settle (r.map fun b => returnByte b s)

/-- PRG_R (R241). -/
def execPrgR (a : Addr) (s : State) : Host.Outcome State Fault Refusal := settleByte (prgRead s a) s

/-- RAM_R (R247): `draw()` where the RAM-protect register closes the window (R323). -/
def execRamR (a : Addr) (s : State) : Host.Outcome State Fault Refusal :=
  if ramReadable s then settleByte (ramRead s a) s else .next (tookDraw (returnByte (drawn s) s))

/-- RAM_W (R248): ignored where the RAM-protect register forbids it (R323). -/
def execRamW (a : Addr) (d : Byte) (s : State) : Host.Outcome State Fault Refusal :=
  if ramWritable s then settle ((ramWrite a d s).map complete) else .next (complete s)

/-- CHR_R (R242). -/
def execChrR (a : Addr) (s : State) : Host.Outcome State Fault Refusal := settleByte (chrRead s a.toNat) s

/-- CHR_W (R243). -/
def execChrW (a : Addr) (d : Byte) (s : State) : Host.Outcome State Fault Refusal :=
  settle ((chrWrite a.toNat d s).map complete)

/-- NT_R (R81). -/
def execNtR (a : Addr) (s : State) : Host.Outcome State Fault Refusal :=
  .next (returnByte (ntRead s (ppuAddrOf a)) s)

/-- NT_W (R82). -/
def execNtW (a : Addr) (d : Byte) (s : State) : Host.Outcome State Fault Refusal :=
  .next (complete (ntWrite (ppuAddrOf a) d s))

/-- PAL_R (R83). -/
def execPalR (a : Addr) (s : State) : Host.Outcome State Fault Refusal :=
  .next (returnByte (palRead s (ppuAddrOf a)) s)

/-- PAL_W (R84). -/
def execPalW (a : Addr) (d : Byte) (s : State) : Host.Outcome State Fault Refusal :=
  .next (complete (palWrite (ppuAddrOf a) d s))

end Sys2Proof.Machine
end

