-- ==== Sys2Proof/Machine/Sprites.lean ====
section
/-! DEFINITION. Sprite evaluation and loading, and the compositing of one pixel
(42_ppu_sprites_compositing.md). -/

namespace Sys2Proof.Machine

/-! ### Sprite steps -/

/-- The empty entry (R28, R202). -/
def emptyEntry : SpriteEntry :=
  { id := 64, positionX := 0xFF, positionY := 0xFF, tile := 0xFF, attributes := 0xFF, dataLow := 0, dataHigh := 0 }

/-- Clear (R203). -/
def clearSecondary (p : Ppu) : Ppu := { p with secondary := List.replicate 8 emptyEntry }

/-- L, the line whose sprites are selected: -1 on the pre-render line (R204, R206). -/
def spriteLine (scanline : Nat) : Int := if scanline = 261 then -1 else scanline

/-- `0 <= L - y < h`, in signed integers (R204). -/
def inRange (line : Int) (h : Nat) (y : Byte) : Bool := decide (0 ≤ line - y.toNat ∧ line - y.toNat < h)

/-- The entry evaluation copies from OAM entry `i` (R27, R204). -/
def oamEntry (oam : Memory) (i : Nat) : SpriteEntry :=
  { id := BitVec.ofNat 7 i, positionY := memRead oam (4 * i), tile := memRead oam (4 * i + 1)
    attributes := memRead oam (4 * i + 2), positionX := memRead oam (4 * i + 3), dataLow := 0, dataHigh := 0 }

/-- The OAM entries in range of line L, in OAM order (R204). -/
def entriesInRange (line : Int) (p : Ppu) : List Nat :=
  (List.range 64).filter fun i => inRange line (spriteHeight p.control) (memRead p.oam (4 * i))

/-- The selected entries: the first eight in range (R204). -/
def selectedEntries (line : Int) (p : Ppu) : List SpriteEntry :=
  ((entriesInRange line p).take 8).map (oamEntry p.oam)

/-- Evaluate (R204, R205): the selected entries fill slots 0, 1, …, the other slots stay, and a 9th in-range
entry sets `sprite_overflow`. DEDUCED, safe, log entry 14. -/
def evaluateSprites (line : Int) (p : Ppu) : Ppu :=
  { p with
    secondary := selectedEntries line p ++ p.secondary.drop (selectedEntries line p).length
    status := statusAfterEvaluation (entriesInRange line p).length p.status }

/-- The row of a sprite's pattern: `(L - y) AND (h - 1)`, mirrored by flip_vertical (R207; DEDUCED, safe, log entry 15). -/
def spriteRow (h : Nat) (line : Int) (e : SpriteEntry) : Nat :=
  let row := ((line - e.positionY.toNat) % (h : Int)).toNat
  if attrFlipVertical e.attributes then row ^^^ (h - 1) else row

/-- The address of the low bit-plane byte of a sprite row (R207). -/
def spriteAddr (control : Byte) (e : SpriteEntry) (row : Nat) : PpuAddr :=
  if ctlSpriteSize control then
    BitVec.ofNat 14 ((e.tile &&& 1#8).toNat * 0x1000 + (e.tile &&& 0xFE#8).toNat * 16 + row + (row &&& 8))
  else
    BitVec.ofNat 14 ((ctlSpriteTable control).toNat * 0x1000 + e.tile.toNat * 16 + row)

/-- One slot of the load (R206): an empty entry as it is, any other with its two pattern bytes (R207). -/
def loadSlot (s : State) (line : Int) (e : SpriteEntry) : Except Fault SpriteEntry :=
  if e.id = 64#7 then .ok e
  else
    let a := spriteAddr s.ppu.control e (spriteRow (spriteHeight s.ppu.control) line e)
    match ppuBusRead s a, ppuBusRead s (a + 8#14) with
    | .ok lo, .ok hi => .ok { e with dataLow := lo, dataHigh := hi }
    | .error f, _ => .error f
    | .ok _, .error f => .error f

/-- The load of every slot (R206). -/
def loadSlots (s : State) (line : Int) : List SpriteEntry → Except Fault (List SpriteEntry)
  | [] => .ok []
  | e :: es =>
    match loadSlot s line e, loadSlots s line es with
    | .ok e', .ok es' => .ok (e' :: es')
    | .error f, _ => .error f
    | .ok _, .error f => .error f

/-- Load (R206). -/
def loadSprites (s : State) (line : Int) : Except Fault Ppu :=
  match loadSlots s line s.ppu.secondary with
  | .ok es => .ok { s.ppu with sprites := es }
  | .error f => .error f

/-- Whether the sprite actions run (R201). -/
def spritesRun (s : State) : Bool := rendering s.ppu.mask || !s.params.spriteEvalGated

/-- SpriteStep(s, d) of a rendering line (R200, R201): the PPU after it. -/
def spritePpu (s : State) : Except Fault Ppu :=
  if s.ppu.dot = 1 then .ok (if spritesRun s then clearSecondary s.ppu else s.ppu)
  else if s.ppu.dot = 257 then
    .ok (if spritesRun s then evaluateSprites (spriteLine s.ppu.scanline) s.ppu else s.ppu)
  else if s.ppu.dot = 321 then
    (if spritesRun s then loadSprites s (spriteLine s.ppu.scanline) else .ok s.ppu)
  else .ok s.ppu

/-! ### One pixel -/

/-- The pattern bits of the background at `fine_x`, before masking (R211). -/
def rawPattern (p : Ppu) : Nat :=
  2 * (p.bgShiftHigh.getLsbD (15 - p.fineX.toNat)).toNat + (p.bgShiftLow.getLsbD (15 - p.fineX.toNat)).toNat

/-- bg_pat of column x (R211, R212): 0 where the background is hidden. -/
def backgroundPattern (p : Ppu) (x : Nat) : Nat := if bgVisible p.mask x then rawPattern p else 0

/-- bg_idx of column x (R211): the attribute bits above the pattern, 0 where transparent. -/
def backgroundIndex (p : Ppu) (x : Nat) : Nat :=
  if backgroundPattern p x = 0 then 0
  else 8 * (p.atShiftHigh.getLsbD (7 - p.fineX.toNat)).toNat + 4 * (p.atShiftLow.getLsbD (7 - p.fineX.toNat)).toNat
    + backgroundPattern p x

/-- An opaque sprite pixel (R213). -/
structure SpritePixel where
  index : Nat
  behind : Bool
  zero : Bool
  deriving DecidableEq, Repr

/-- The pattern value of an entry at offset `off` from its left edge (R213). -/
def slotPattern (e : SpriteEntry) (off : Nat) : Nat :=
  let o := if attrFlipHorizontal e.attributes then 7 - off else off
  2 * (e.dataHigh.getLsbD (7 - o)).toNat + (e.dataLow.getLsbD (7 - o)).toNat

/-- Whether an entry covers column x: `0 <= x - position_x <= 7` (R213). -/
def covers (e : SpriteEntry) (x : Nat) : Bool :=
  decide (e.id ≠ 64#7 ∧ e.positionX.toNat ≤ x ∧ x ≤ e.positionX.toNat + 7)

/-- The opaque pixel of one slot at column x, if any (R213). -/
def slotPixel (x : Nat) (e : SpriteEntry) : Option SpritePixel :=
  if covers e x ∧ slotPattern e (x - e.positionX.toNat) ≠ 0 then
    some
      { index := 0x10 + 4 * (attrPalette e.attributes).toNat + slotPattern e (x - e.positionX.toNat)
        behind := attrBehind e.attributes
        zero := decide (e.id = 0#7) }
  else none

/-- SpritePixel(x) (R213): the first opaque slot. -/
def spritePixel (p : Ppu) (x : Nat) : Option SpritePixel :=
  if spritesVisible p.mask x then p.sprites.findSome? (slotPixel x) else none

/-- Priority (R214). -/
def priorityIndex (bgPat bgIdx : Nat) (sp : Option SpritePixel) : Nat :=
  match sp with
  | some q => if bgPat = 0 ∨ q.behind = false then q.index else bgIdx
  | none => if bgPat = 0 then 0 else bgIdx

/-- Grey (R217). -/
def grey (c : Argb) : Argb :=
  let m : Byte := BitVec.ofNat 8
    (((c.extractLsb' 16 8).toNat + (c.extractLsb' 8 8).toNat + (c.extractLsb' 0 8).toNat) / 3)
  c.extractLsb' 24 8 ++ m ++ m ++ m

/-- The colour of palette index `idx` (R216): the stored byte AND 0x3F picks one of the 64 colours. -/
def pixelColour (s : State) (idx : Nat) : Argb :=
  let c := s.params.paletteArgb.get ((palRead s (BitVec.ofNat 14 (0x3F00 + idx))).extractLsb' 0 6).toFin
  if maskGreyscale s.ppu.mask then grey c else c

/-- The composited index of column x (R210, R214). -/
def pixelIndex (p : Ppu) (x : Nat) : Nat :=
  priorityIndex (backgroundPattern p x) (backgroundIndex p x) (spritePixel p x)

/-- Whether the opaque sprite pixel of column x is sprite 0's (R213, R215). -/
def zeroOpaque (p : Ppu) (x : Nat) : Bool :=
  match spritePixel p x with
  | some q => q.zero
  | none => false

/-- The composite and output of one visible pixel (R210): the sprite-0 hit (R215), then `display_write` (R216). -/
def outputPixel (x : Nat) (s : State) : State :=
  emit (.displayWrite x s.ppu.scanline (pixelColour s (pixelIndex s.ppu x)))
    (setPpu { s.ppu with status := statusAfterPixel x (backgroundPattern s.ppu x) (zeroOpaque s.ppu x) s.ppu.status } s)

/-- Shift (R175). -/
def shiftRegisters (p : Ppu) : Ppu :=
  { p with
    bgShiftLow := p.bgShiftLow <<< 1
    bgShiftHigh := p.bgShiftHigh <<< 1
    atShiftLow := p.atShiftLow.shiftConcat p.atFeedLow
    atShiftHigh := p.atShiftHigh.shiftConcat p.atFeedHigh }

/-- GeneratePixel(x) (R210): output on visible lines and columns, and always the shift. -/
def generatePixel (x : Nat) (s : State) : State :=
  if s.ppu.scanline ≤ 239 ∧ x ≤ 255 then setPpu (shiftRegisters (outputPixel x s).ppu) (outputPixel x s)
  else setPpu (shiftRegisters s.ppu) s

end Sys2Proof.Machine
end

