-- ==== Sys2Proof/Machine/Tick.lean ====
section
/-! DEFINITION. The dot pipeline (41_ppu_dot_pipeline.md): one TICK, with the background fetches, the scroll
updates, the status events, the mapper hook and the advance of the position. -/

namespace Sys2Proof.Machine

/-- A rendering line: visible, or the pre-render line 261 (R161). -/
def renderingLine (scanline : Nat) : Bool := decide (scanline ≤ 239 ∨ scanline = 261)

/-- The dots of the 8-dot micro-cycle: 2..255 and 322..337 (R165). -/
def fetchDot (d : Nat) : Bool := decide ((2 ≤ d ∧ d ≤ 255) ∨ (322 ≤ d ∧ d ≤ 337))

/-! ### Background fetch (R165 to R175) -/

/-- NtAddr (R168): `0x2000 OR (v AND 0x0FFF)`. -/
def ntAddrStep (p : Ppu) : Ppu := { p with fetchAddr := 0x2000#14 ||| ((p.v &&& 0x0FFF#15).setWidth 14) }

/-- AtAddr (R170). -/
def atAddrStep (p : Ppu) : Ppu :=
  { p with
    fetchAddr :=
      (0x23C0#15 ||| (p.v &&& 0x0C00#15) ||| ((p.v >>> 4) &&& 0x38#15) ||| ((p.v >>> 2) &&& 0x07#15)).setWidth 14 }

/-- PatAddr (R172). -/
def patAddrStep (p : Ppu) : Ppu :=
  { p with
    fetchAddr := BitVec.ofNat 14
      ((ctlBackgroundTable p.control).toNat * 0x1000 + p.ntByte.toNat * 16 + (fineY p.v).toNat) }

/-- PatHighAddr (R174). -/
def patHighAddrStep (p : Ppu) : Ppu := { p with fetchAddr := p.fetchAddr + 8#14 }

/-- Reload (R175). -/
def reload (p : Ppu) : Ppu :=
  { p with
    bgShiftLow := (p.bgShiftLow &&& 0xFF00#16) ||| p.patternLow.setWidth 16
    bgShiftHigh := (p.bgShiftHigh &&& 0xFF00#16) ||| p.patternHigh.setWidth 16
    atFeedLow := p.atByte.getLsbD 0
    atFeedHigh := p.atByte.getLsbD 1 }

/-- A read of `fetch_addr` whose byte `f` latches. -/
def fetchInto (f : Byte → Ppu) (s : State) : Except Fault Ppu :=
  match ppuBusRead s s.ppu.fetchAddr with
  | .ok b => .ok (f b)
  | .error e => .error e

/-- NtRead (R169). -/
def ntReadStep (s : State) : Except Fault Ppu := fetchInto (fun b => { s.ppu with ntByte := b }) s

/-- The attribute byte shifted to its tile's quadrant (R171). -/
def quadrant (v : Scroll) (b : Byte) : Byte :=
  let b1 := if (coarseY v).getLsbD 1 then b >>> 4 else b
  if (coarseX v).getLsbD 1 then b1 >>> 2 else b1

/-- AtRead (R171). -/
def atReadStep (s : State) : Except Fault Ppu :=
  fetchInto (fun b => { s.ppu with atByte := quadrant s.ppu.v b }) s

/-- PatLowRead (R173). -/
def patLowStep (s : State) : Except Fault Ppu := fetchInto (fun b => { s.ppu with patternLow := b }) s

/-- PatHighRead (R174). -/
def patHighStep (s : State) : Except Fault Ppu := fetchInto (fun b => { s.ppu with patternHigh := b }) s

/-- One dot of the micro-cycle, by `d mod 8`: odd dots compute an address and even dots read it, as the table and the
example of R165 have it. The words of 92_eei_decisions.md D15 say the opposite: DEDUCED, unsafe, log entry 22. -/
def microCycle (k : Nat) (s : State) : Except Fault Ppu :=
  match k with
  | 1 => .ok (ntAddrStep (reload s.ppu))
  | 2 => ntReadStep s
  | 3 => .ok (atAddrStep s.ppu)
  | 4 => atReadStep s
  | 5 => .ok (patAddrStep s.ppu)
  | 6 => patLowStep s
  | 7 => .ok (patHighAddrStep s.ppu)
  | _ => patHighStep s

/-- BackgroundStep(d) of a rendering line (R165): the PPU after it. -/
def backgroundPpu (s : State) : Except Fault Ppu :=
  if fetchDot s.ppu.dot then microCycle (s.ppu.dot % 8) s
  else if s.ppu.dot = 1 ∨ s.ppu.dot = 321 ∨ s.ppu.dot = 339 then .ok (ntAddrStep s.ppu)
  else if s.ppu.dot = 256 then patHighStep s
  else if s.ppu.dot = 257 then .ok (reload s.ppu)
  else if s.ppu.dot = 338 ∨ s.ppu.dot = 340 then ntReadStep s
  else .ok s.ppu

/-! ### Scroll, events, hook, advance -/

/-- `v` after the scroll step of a rendering line with rendering on (R176 to R179). -/
def scrolledV (p : Ppu) : Scroll :=
  if fetchDot p.dot ∧ p.dot % 8 = 0 then incrementCoarseX p.v
  else if p.dot = 256 then incrementY p.v
  else if p.dot = 257 then copyHorizontal p.v p.t
  else if p.scanline = 261 ∧ 280 ≤ p.dot ∧ p.dot ≤ 304 then copyVertical p.v p.t
  else p.v

/-- ScrollStep (R160, R176 to R179): only while `rendering`. -/
def scrollStep (s : State) : State :=
  if rendering s.ppu.mask then setPpu { s.ppu with v := scrolledV s.ppu } s else s

/-- GeneratePixel at dots 2..257 and 322..337 (R160, R167). -/
def pixelStep (s : State) : State :=
  if (2 ≤ s.ppu.dot ∧ s.ppu.dot ≤ 257) ∨ (322 ≤ s.ppu.dot ∧ s.ppu.dot ≤ 337) then generatePixel (s.ppu.dot - 2) s
  else s

/-- Steps (1) to (4) of R164 on a rendering line. -/
def lineSteps (s : State) : Except Fault State :=
  match spritePpu s with
  | .ok p =>
    match backgroundPpu (pixelStep (setPpu p s)) with
    | .ok q => .ok (scrollStep (setPpu q (pixelStep (setPpu p s))))
    | .error f => .error f
  | .error f => .error f

/-- EventStep (R180 to R183). -/
def eventStep (s : State) : State :=
  if s.ppu.scanline = 261 ∧ s.ppu.dot = 1 then setPpu { s.ppu with status := statusCleared } s
  else if s.ppu.scanline = 241 ∧ s.ppu.dot = 1 then
    let s1 := setPpu { s.ppu with status := statusSetVerticalBlank s.ppu.status } s
    if ctlNmiEnable s.ppu.control then emit .nmi s1 else s1
  else if s.ppu.scanline = 240 ∧ s.ppu.dot = 0 then emit .displayUpdate s
  else s

/-- HookStep (R184): at dot 260 of a rendering line while rendering. -/
def hookStep (s : State) : State :=
  if renderingLine s.ppu.scanline ∧ s.ppu.dot = 260 ∧ rendering s.ppu.mask then runHook (emit .mapperHook s)
  else s

/-- Whether dot 340 is skipped (R162, R163). -/
def skipsDot (p : Ppu) : Bool := decide (p.scanline = 261 ∧ p.dot = 339) && p.frameOdd && rendering p.mask

/-- Advance (R162). Positions out of range follow the same pseudocode: DEDUCED, safe, log entry 19. -/
def advance (p : Ppu) : Ppu :=
  if skipsDot p ∨ 340 < p.dot + 1 then
    if 261 < p.scanline + 1 then { p with dot := 0, scanline := 0, frameOdd := !p.frameOdd }
    else { p with dot := 0, scanline := p.scanline + 1 }
  else { p with dot := p.dot + 1 }

/-- Steps (5) to (7) of R164. -/
def endOfDot (s : State) : State := setPpu (advance (hookStep (eventStep s)).ppu) (hookStep (eventStep s))

/-- Tick (R160, R164). -/
def tick (s : State) : Except Fault State :=
  if renderingLine s.ppu.scanline then (lineSteps s).map endOfDot else .ok (endOfDot s)

/-- TICK (R160). -/
def execTick (s : State) : Host.Outcome State Fault Refusal := settle ((tick s).map complete)

end Sys2Proof.Machine
end

