-- ==== Sys2Proof/Machine/Dispatch.lean ====
section
/-! DEFINITION. The meaning of every transaction, one arm a constructor. -/

namespace Sys2Proof.Machine

def exec (i : Instr) (s : State) : Host.Outcome State Fault Refusal :=
  match i with
  | .ppuCtrlW a d => Sys2Proof.Machine.execPpuCtrlW a d s
  | .ppuMaskW a d => Sys2Proof.Machine.execPpuMaskW a d s
  | .ppuStatusW a d => Sys2Proof.Machine.execPpuStatusW a d s
  | .oamAddrW a d => Sys2Proof.Machine.execOamAddrW a d s
  | .oamDataW a d => Sys2Proof.Machine.execOamDataW a d s
  | .ppuScrollW a d => Sys2Proof.Machine.execPpuScrollW a d s
  | .ppuAddrW a d => Sys2Proof.Machine.execPpuAddrW a d s
  | .ppuDataW a d => Sys2Proof.Machine.execPpuDataW a d s
  | .ppuCtrlR a => Sys2Proof.Machine.execPpuCtrlR a s
  | .ppuMaskR a => Sys2Proof.Machine.execPpuMaskR a s
  | .ppuStatusR a => Sys2Proof.Machine.execPpuStatusR a s
  | .oamAddrR a => Sys2Proof.Machine.execOamAddrR a s
  | .oamDataR a => Sys2Proof.Machine.execOamDataR a s
  | .ppuScrollR a => Sys2Proof.Machine.execPpuScrollR a s
  | .ppuAddrR a => Sys2Proof.Machine.execPpuAddrR a s
  | .ppuDataR a => Sys2Proof.Machine.execPpuDataR a s
  | .prgR a => Sys2Proof.Machine.execPrgR a s
  | .ramR a => Sys2Proof.Machine.execRamR a s
  | .ramW a d => Sys2Proof.Machine.execRamW a d s
  | .nromPrgW a d => Sys2Proof.Machine.execNromPrgW a d s
  | .uxromBankW a d => Sys2Proof.Machine.execUxromBankW a d s
  | .cnromBankW a d => Sys2Proof.Machine.execCnromBankW a d s
  | .mmc1ControlW a d => Sys2Proof.Machine.execMmc1ControlW a d s
  | .mmc1Chr0W a d => Sys2Proof.Machine.execMmc1Chr0W a d s
  | .mmc1Chr1W a d => Sys2Proof.Machine.execMmc1Chr1W a d s
  | .mmc1PrgW a d => Sys2Proof.Machine.execMmc1PrgW a d s
  | .mmc3BankSelectW a d => Sys2Proof.Machine.execMmc3BankSelectW a d s
  | .mmc3BankDataW a d => Sys2Proof.Machine.execMmc3BankDataW a d s
  | .mmc3MirroringW a d => Sys2Proof.Machine.execMmc3MirroringW a d s
  | .mmc3RamProtectW a d => Sys2Proof.Machine.execMmc3RamProtectW a d s
  | .mmc3IrqLatchW a d => Sys2Proof.Machine.execMmc3IrqLatchW a d s
  | .mmc3IrqReloadW a d => Sys2Proof.Machine.execMmc3IrqReloadW a d s
  | .mmc3IrqDisableW a d => Sys2Proof.Machine.execMmc3IrqDisableW a d s
  | .mmc3IrqEnableW a d => Sys2Proof.Machine.execMmc3IrqEnableW a d s
  | .chrR a => Sys2Proof.Machine.execChrR a s
  | .chrW a d => Sys2Proof.Machine.execChrW a d s
  | .ntR a => Sys2Proof.Machine.execNtR a s
  | .ntW a d => Sys2Proof.Machine.execNtW a d s
  | .palR a => Sys2Proof.Machine.execPalR a s
  | .palW a d => Sys2Proof.Machine.execPalW a d s
  | .tick => Sys2Proof.Machine.execTick s
  | .reset => Sys2Proof.Machine.execReset s
  | .nromHook => Sys2Proof.Machine.execNromHook s
  | .mmc1Hook => Sys2Proof.Machine.execMmc1Hook s
  | .uxromHook => Sys2Proof.Machine.execUxromHook s
  | .cnromHook => Sys2Proof.Machine.execCnromHook s
  | .mmc3Hook => Sys2Proof.Machine.execMmc3Hook s

end Sys2Proof.Machine
end

