-- ==== Sys2Proof/Machine/Fetch.lean ====
section
/-! DEFINITION. The fetch of the next transaction the host has issued, with the checks that a session makes before
it (30_encoding.md R103; 70_reset_and_hazards.md R373). -/

namespace Sys2Proof.Machine

/-- What the fetch finds. -/
inductive Fetched where
  /-- No transaction is pending. -/
  | idle
  /-- A transaction that has no meaning in this session. -/
  | refuse (r : Refusal)
  /-- A decoded transaction, and the state with it taken off the host's stream. -/
  | run (i : Instr) (s : State)
  deriving DecidableEq, Repr

/-- Whether a transaction may run before the session's first RESET: only RESET itself (R370, R373). -/
def mayRun (s : State) (i : Instr) : Bool := s.started || decide (i = .reset)

/-- Admission of a transaction: a loaded cartridge (R373), the session's MAPPER_ID in bits 31:24 (R103), a row
that matches (R103, R108), and a RESET before anything else (R373). DEDUCED order,
safe, log entry 16. -/
def accept (t : Transaction) (s : State) : Fetched :=
  if s.loaded = false then .refuse .noCartridge
  else if wordMapper t.word ≠ s.mapper.id then .refuse (.otherMapper (wordMapper t.word))
  else
    match decode t with
    | .error r => .refuse (.undecoded r)
    | .ok i => if mayRun s i then .run i s else .refuse .beforeReset

/-- The next transaction of the host's stream (R76). -/
def fetch (s : State) : Fetched :=
  match s.pending with
  | [] => .idle
  | t :: rest => accept t { s with pending := rest }

/-- The state as a session of the variant `id`: unchanged if it is one, else with that variant selected and reset
(R240, R371). A MAPPER_ID outside 0..4 selects none (R346). -/
def sessionOf (id : Byte) (s : State) : State :=
  if s.mapper.id = id then s
  else
    match selectMapper id s.params with
    | some m => resetWith m s
    | none => s

/-- The state with a transaction placed where the fetch takes the next one, in a running session of the
transaction's own MAPPER_ID. -/
def placeTransaction (t : Transaction) (s : State) : State :=
  { sessionOf (wordMapper t.word) s with pending := t :: s.pending, loaded := true, started := true }

end Sys2Proof.Machine
end

