-- ==== Sys2Proof/Machine/Step.lean ====
section
/-! DEFINITION. One step: the next transaction of the host, performed whole (20_memory.md R74, R76). -/

namespace Sys2Proof.Machine

/-- One transaction (R100). With none pending the block keeps its state (DEDUCED, safe, log entry 1). -/
def step (s : State) : Host.Outcome State Fault Refusal :=
  match fetch s with
  | .idle => .next s
  | .refuse r => .refused r
  | .run i s' => exec i s'

/-- `s` with the transaction of table word `w` as the next one the step performs. -/
def State.withFetchWord (s : State) (nbits w : Nat) : State := placeTransaction (transactionOfNat nbits w) s

end Sys2Proof.Machine
end

