-- ==== Sys2Proof/Machine/Load.lean ====
section
/-! DEFINITION. The cartridge image (43_mapper_common.md R250 to R254): header, validation, geometry, mapper
selection and `clear()`. Loading is a step of the host before the session, not a transaction (R370). -/

namespace Sys2Proof.Machine

/-- The header fields this block uses (R250). -/
structure Header where
  prgBanks : Nat
  chrRomBanks : Nat
  vertical : Bool
  trainer : Bool
  ramBanks : Nat
  mapperId : Byte
  deriving DecidableEq, Repr

/-- Byte `i` of an image. -/
def imageByte (file : List Byte) (i : Nat) : Byte := file.getD i 0

/-- The header of an image of at least 16 bytes (R250, R252). -/
def parseHeader (file : List Byte) : Header :=
  { prgBanks := (imageByte file 4).toNat
    chrRomBanks := (imageByte file 5).toNat
    vertical := (imageByte file 6).getLsbD 0
    trainer := (imageByte file 6).getLsbD 2
    ramBanks := (imageByte file 8).toNat + 1
    mapperId := (imageByte file 7).extractLsb' 4 4 ++ (imageByte file 6).extractLsb' 4 4 }

/-- Bytes 0..3 are the magic 4E 45 53 1A (R250, R251). -/
def hasMagic (file : List Byte) : Bool := file.take 4 == [0x4E, 0x45, 0x53, 0x1A]

/-- The offset of the PRG ROM in the image (R250). -/
def prgStart (h : Header) : Nat := 16 + (if h.trainer then 512 else 0)

/-- The bytes the header states: header, trainer, PRG ROM and CHR ROM (R251). -/
def statedSize (h : Header) : Nat := prgStart h + 16384 * h.prgBanks + 8192 * h.chrRomBanks

/-- Load validation in the order of R347; `none` is a path that cannot be opened (R251, R345). -/
def checkImage : Option (List Byte) → Except Fault Header
  | none => .error .cartridgeNotFound
  | some file =>
    if file.length < 16 then .error .malformedCartridge
    else if hasMagic file = false then .error .malformedCartridge
    else if (parseHeader file).prgBanks = 0 then .error .malformedCartridge
    else if file.length < statedSize (parseHeader file) then .error .malformedCartridge
    else .ok (parseHeader file)

/-- The cartridge of a valid image (R252): ROM banks from the image, RAM banks from CART_RAM_INIT. -/
def cartridgeOf (file : List Byte) (h : Header) (p : Params) : Cartridge :=
  { prgBanks := h.prgBanks
    chrRomBanks := h.chrRomBanks
    ramBanks := h.ramBanks
    hdrVertical := h.vertical
    prgRom := memOfBytes 0 ((file.drop (prgStart h)).take (16384 * h.prgBanks))
    chr :=
      if h.chrRomBanks = 0 then memOfCells 8192 p.chrRamInit
      else memOfBytes 0 ((file.drop (prgStart h + 16384 * h.prgBanks)).take (8192 * h.chrRomBanks))
    prgRam := memOfCells (8192 * h.ramBanks) p.prgRamInit }

/-- A cartridge with all banks released (R254). -/
def noBanks : Cartridge :=
  { prgBanks := 0, chrRomBanks := 0, ramBanks := 0, hdrVertical := false, prgRom := [], chr := [], prgRam := [] }

/-- `clear()` of the cartridge, the mapper and the PPU (R254, R36). DESIGN CHOICE, safe, log entry 17: the PPU is
cleared with the cartridge. DESIGN CHOICE, unsafe, log entry 23: all else stays, the event trace, the bus mirroring,
the mapper's registers, the latest outcome and the host's stream. -/
def clearBlock (s : State) : State :=
  { s with ppu := Ppu.zero, cart := noBanks, prgTable := [], chrTable := [], loaded := false, started := false }

/-- `load(path)` of the cartridge (R251, R252): the block it leaves, and the fault of a failed load. A failed load
leaves the block cleared, with no half-populated bank and `loaded = false`. What either leaves outside the cartridge is
the model's choice, log entries 17 and 23. -/
def loadCartridge (file : Option (List Byte)) (s : State) : State × Option Fault :=
  match checkImage file with
  | .error f => (clearBlock s, some f)
  | .ok h => ({ clearBlock s with cart := cartridgeOf (file.getD []) h s.params, loaded := true }, none)

/-- Steps (1) and (2) of a session (R370): the load, and mapper selection by the header's MAPPER_ID (R253). The
outcome is the session before its first RESET, the fault of a failed load, or the refusal of a MAPPER_ID outside
0..4, whose image is loaded but has no run (R346). -/
def load (file : Option (List Byte)) (s : State) : Host.Outcome State Fault Refusal :=
  match loadCartridge file s with
  | (_, some f) => raise f
  | (t, none) =>
    match selectMapper (parseHeader (file.getD [])).mapperId s.params with
    | none => .refused (.unsupportedMapper (parseHeader (file.getD [])).mapperId)
    | some m => .next { t with mapper := m }

end Sys2Proof.Machine
end

