-- ==== Sys2Proof/Safety.lean ====
section
/-! DEFINITION. What holds in every state of a session, and what it means that a step leaves something
unchanged: the terms the statements use. -/

namespace Sys2Proof.Machine

/-- The position stays in its ranges: scanline 0..261, dot 0..340 (R23). -/
abbrev PositionOk (s : State) : Prop := s.ppu.scanline ≤ 261 ∧ s.ppu.dot ≤ 340

/-- Every memory is in its canonical form. -/
abbrev MemoriesCanonical (s : State) : Prop :=
  Memory.wf s.ppu.oam ∧ Memory.wf s.ppu.ntMem ∧ Memory.wf s.ppu.palMem
    ∧ Memory.wf s.cart.prgRom ∧ Memory.wf s.cart.chr ∧ Memory.wf s.cart.prgRam

/-- Both sprite arrays have their eight slots (R28). -/
abbrev SlotsOk (s : State) : Prop := s.ppu.sprites.length = 8 ∧ s.ppu.secondary.length = 8

/-- At least one PRG ROM bank and one PRG RAM bank (R5, R252). -/
abbrev GeometryOk (s : State) : Prop := 1 ≤ s.cart.prgBanks ∧ 1 ≤ s.cart.ramBanks

/-- The bank-index tables are those of the mapper's registers and the geometry (R32, R245). -/
abbrev TablesCoherent (s : State) : Prop :=
  s.prgTable = prgTableOf s.mapper s.cart.prgBanks ∧ s.chrTable = chrTableOf s.mapper (chrBanks s.cart)

/-- The bus mirroring is the mapper's `mirroring(cartridge)` (R31, R255, R297, R320, R372). -/
abbrev MirroringCoherent (s : State) : Prop := s.mirroring = mirroringOf s.mapper s.cart.hdrVertical

/-- `shift_count` stays in 0..4 (R290). -/
def shiftCountOk : Mapper → Bool
  | .nrom => true
  | .uxrom _ => true
  | .cnrom _ => true
  | .mmc1 r => decide (r.shiftCount ≤ 4)
  | .mmc3 _ => true

/-- What the translation of every PRG, CHR and RAM access needs (R32, R245, R343). -/
abbrev StorageOk (s : State) : Prop := GeometryOk s ∧ TablesCoherent s

/-- The invariant of a session. -/
abbrev Inv (s : State) : Prop :=
  PositionOk s ∧ MemoriesCanonical s ∧ SlotsOk s ∧ StorageOk s ∧ MirroringCoherent s ∧ shiftCountOk s.mapper = true

/-- Every byte of every memory reads as before. -/
def SameBytes (s t : State) : Prop := ∀ (k : Space) (a : Nat), byteAt t k a = byteAt s k a

/-- Every byte of every memory but one reads as before. -/
def SameBytesBut (k : Space) (a : Nat) (s t : State) : Prop :=
  ∀ (k' : Space) (a' : Nat), ¬(k' = k ∧ a' = a) → byteAt t k' a' = byteAt s k' a'

/-- The scroll and address registers, the toggle are unchanged (R20, R21). -/
def SameScroll (s t : State) : Prop :=
  t.ppu.v = s.ppu.v ∧ t.ppu.t = s.ppu.t ∧ t.ppu.fineX = s.ppu.fineX ∧ t.ppu.w = s.ppu.w

/-- The background pipeline is unchanged (R22). -/
def SamePipeline (s t : State) : Prop :=
  t.ppu.bgShiftLow = s.ppu.bgShiftLow ∧ t.ppu.bgShiftHigh = s.ppu.bgShiftHigh
    ∧ t.ppu.atShiftLow = s.ppu.atShiftLow ∧ t.ppu.atShiftHigh = s.ppu.atShiftHigh
    ∧ t.ppu.atFeedLow = s.ppu.atFeedLow ∧ t.ppu.atFeedHigh = s.ppu.atFeedHigh
    ∧ t.ppu.fetchAddr = s.ppu.fetchAddr ∧ t.ppu.ntByte = s.ppu.ntByte ∧ t.ppu.atByte = s.ppu.atByte
    ∧ t.ppu.patternLow = s.ppu.patternLow ∧ t.ppu.patternHigh = s.ppu.patternHigh

/-- The position is unchanged (R23). -/
def SamePosition (s t : State) : Prop :=
  t.ppu.scanline = s.ppu.scanline ∧ t.ppu.dot = s.ppu.dot ∧ t.ppu.frameOdd = s.ppu.frameOdd

/-- The sprite arrays are unchanged (R28). -/
def SameSprites (s t : State) : Prop := t.ppu.sprites = s.ppu.sprites ∧ t.ppu.secondary = s.ppu.secondary

/-- The mapper's registers, the tables and the mirroring are unchanged (R31 to R33). -/
def SameMapper (s t : State) : Prop :=
  t.mapper = s.mapper ∧ t.prgTable = s.prgTable ∧ t.chrTable = s.chrTable ∧ t.mirroring = s.mirroring

/-- The geometry, the parameters and the session flags are unchanged (R5, R34, R251, R370). -/
def SameSession (s t : State) : Prop :=
  t.cart.prgBanks = s.cart.prgBanks ∧ t.cart.chrRomBanks = s.cart.chrRomBanks ∧ t.cart.ramBanks = s.cart.ramBanks
    ∧ t.cart.hdrVertical = s.cart.hdrVertical ∧ t.params = s.params ∧ t.loaded = s.loaded ∧ t.started = s.started
    ∧ t.pending = s.pending

/-- A sequence of transactions, stopping at the first that gives no next state (R76). -/
def execAll : List Instr → State → Host.Outcome State Fault Refusal
  | [], s => .next s
  | i :: rest, s =>
    match exec i s with
    | .next t => execAll rest t
    | .fault f => .fault f
    | .refused r => .refused r

/-- The number of set bits of a mask (R103). -/
def setBits (m : Word) : Nat := (List.range 32).countP fun k => m.getLsbD k

/-- A visible line or the pre-render line (R161). -/
abbrev OnRenderingLine (s : State) : Prop := s.ppu.scanline ≤ 239 ∨ s.ppu.scanline = 261

/-- Background or sprite display is on, in the bits of `mask` (R24). -/
abbrev RenderingOn (s : State) : Prop := s.ppu.mask.getLsbD 3 = true ∨ s.ppu.mask.getLsbD 4 = true

/-- The sprite actions run at this dot (R201). -/
abbrev SpriteActionsRun (s : State) : Prop := s.params.spriteEvalGated = false ∨ RenderingOn s

/-- The dots of the fetch micro-cycle (R165). -/
abbrev OnFetchDot (s : State) : Prop := (2 ≤ s.ppu.dot ∧ s.ppu.dot ≤ 255) ∨ (322 ≤ s.ppu.dot ∧ s.ppu.dot ≤ 337)

/-- `v` after IncrementV(), in numbers (R138). -/
def nextV (s : State) : Scroll :=
  BitVec.ofNat 15 ((s.ppu.v.toNat + if s.ppu.control.getLsbD 2 then 32 else 1) % 0x8000)

/-- The state after a mapper write that leaves the registers `m`: the tables and the mirroring those of `m`
(R245, R297, R320). -/
def recomputed (m : Mapper) (s : State) : State :=
  { s with
    mapper := m
    prgTable := prgTableOf m s.cart.prgBanks
    chrTable := chrTableOf m (chrBanks s.cart)
    mirroring := mirroringOf m s.cart.hdrVertical
    result := none }

/-- The data byte that sends bit `k` of a value (R114). -/
def bitByte (value : BitVec 5) (k : Nat) : Byte := if value.getLsbD k then 1 else 0

/-- The four MMC1 write rows, at one address (R293 to R296). -/
def mmc1Rows (a : Addr) (d : Byte) : List Instr :=
  [.mmc1ControlW a d, .mmc1Chr0W a d, .mmc1Chr1W a d, .mmc1PrgW a d]

/-- The byte CART_RAM_INIT gives at offset `j`: that of the last pair with this offset, else 0 (R252; log entry 18). -/
def initByte (cells : List Host.Cell) (j : Nat) : Byte :=
  match cells.reverse.find? (fun c => c.1 == j) with
  | some c => c.2
  | none => 0

/-- The cartridge is cleared: `loaded = false`, and no storage has a bank or a byte (R251, R254). -/
abbrev Cleared (s : State) : Prop :=
  s.loaded = false ∧ s.cart.prgBanks = 0 ∧ s.cart.chrRomBanks = 0 ∧ s.cart.ramBanks = 0
    ∧ s.cart.prgRom = [] ∧ s.cart.chr = [] ∧ s.cart.prgRam = []

/-- The pattern value of a sprite entry in a column it covers, in numbers: its two pattern bits at the offset from its
left edge, mirrored by flip_horizontal (R213). -/
def spriteValue (e : SpriteEntry) (x : Nat) : Nat :=
  let off := if e.attributes.getLsbD 6 then 7 - (x - e.positionX.toNat) else x - e.positionX.toNat
  (e.dataHigh.getLsbD (7 - off)).toNat * 2 + (e.dataLow.getLsbD (7 - off)).toNat

/-- A slot has no opaque pixel in column x: it is empty, does not cover the column, or is transparent there (R213). -/
abbrev ShowsNothing (e : SpriteEntry) (x : Nat) : Prop :=
  e.id = 64#7 ∨ x < e.positionX.toNat ∨ e.positionX.toNat + 7 < x ∨ spriteValue e x = 0

/-- The colour shown for palette index `idx`, in numbers: the low six bits of the stored byte pick one of the 64
colours, and under greyscale (mask bit 0) its three channels are averaged (R216, R217). -/
def shownColour (s : State) (idx : Nat) : Argb :=
  let c := s.params.paletteArgb.get ((byteAt s .pal idx).setWidth 6).toFin
  let avg := (c.toNat / 0x10000 % 256 + c.toNat / 0x100 % 256 + c.toNat % 256) / 3
  if s.ppu.mask.getLsbD 0 then BitVec.ofNat 32 (c.toNat / 0x1000000 * 0x1000000 + avg * 0x10101) else c

/-- The loop of R204 as the spec writes it, from entry `i` on with `left` entries to go, `slots` the secondary
buffer, `n` the slots filled and `flag` the overflow flag. -/
def evaluationLoop (h line : Int) (oam : Nat → Byte) :
    Nat → Nat → List SpriteEntry → Nat → Bool → List SpriteEntry × Bool
  | 0, _, slots, _, flag => (slots, flag)
  | left + 1, i, slots, n, flag =>
    if 0 ≤ line - (oam (4 * i)).toNat ∧ line - (oam (4 * i)).toNat < h then
      if n < 8 then
        evaluationLoop h line oam left (i + 1)
          (slots.set n
            { id := BitVec.ofNat 7 i, positionY := oam (4 * i), tile := oam (4 * i + 1)
              attributes := oam (4 * i + 2), positionX := oam (4 * i + 3), dataLow := 0, dataHigh := 0 })
          (n + 1) flag
      else (slots, true)
    else evaluationLoop h line oam left (i + 1) slots n flag

end Sys2Proof.Machine
end

