-- ==== Sys2Proof/Certificates/Slice0/Obligations.lean ====
section
/-! DEFINITION. The statements for the provers. Each docstring names the rules of spec/ it formalises, or the log entry
it rests on. A statement about a next state gives the whole next state, so that it is the frame too: what
`with` does not name is unchanged. -/

open Sys2Proof Sys2Proof.Machine

/-! ### Encoding -/

/-- Decoding an encoded well-formed instruction gives it back, with every operand, in a session of any variant
(R100 to R107). -/
def Obligations.DecodeOfEncode : Prop :=
  ∀ (mid : Byte) (i : Instr), i.wf = true → decode (encode mid i) = .ok i

/-- Whatever decodes is well-formed, and is encoded by its own word, with the data byte of a write (R100, R101). -/
def Obligations.EncodeOfDecode : Prop :=
  ∀ (x : Transaction) (i : Instr), decode x = .ok i →
    i.wf = true ∧ encode (wordMapper x.word) i = ⟨x.word, if wordWrite x.word then x.data else 0⟩

/-- R103: a word decodes to the row it matches whose mask has the most set bits, and is refused when it matches
none. -/
def Obligations.DecodeFollowsTable : Prop :=
  ∀ (x : Transaction),
    (∀ i, decode x = .ok i →
      i.row ∈ allRows ∧ i.row.hits x.word = true
        ∧ ∀ r ∈ allRows, r.hits x.word = true → r = i.row ∨ setBits r.mask < setBits i.row.mask)
    ∧ (∀ e, decode x = .error e → ∀ r ∈ allRows, r.hits x.word = false)

/-- R108: the reserved and illegal words are refused. -/
def Obligations.ReservedWordsRefused : Prop :=
  ∀ (x : Transaction),
    (x.word.extractLsb' 20 4 ≠ 0 ∨ x.word.getLsbD 16 = true ∨ wordSpace x.word = 3
      ∨ (wordSpace x.word = 0 ∧ ((wordAddr x.word).toNat < 0x2000
          ∨ 0x4000 ≤ (wordAddr x.word).toNat ∧ (wordAddr x.word).toNat < 0x6000))
      ∨ (wordSpace x.word = 1 ∧ 0x4000 ≤ (wordAddr x.word).toNat)
      ∨ (wordSpace x.word = 2 ∧ (wordWrite x.word = true ∨ 3 ≤ (wordAddr x.word).toNat))) →
    ∃ e, decode x = .error e

/-- Words of 95_test_vectors.md 2.1 decode as that table says. -/
def Obligations.SampleWordsDecode : Prop :=
  decode ⟨0x00023456, 0x20⟩ = .ok (.ppuAddrW 0x3456 0x20)
    ∧ decode ⟨0x0000200A, 0⟩ = .ok (.ppuStatusR 0x200A)
    ∧ decode ⟨0x0202C123, 0xF5⟩ = .ok (.uxromBankW 0xC123 0xF5)
    ∧ decode ⟨0x0102BFFF, 0x01⟩ = .ok (.mmc1Chr0W 0xBFFF 0x01)
    ∧ decode ⟨0x04029FFF, 0x21⟩ = .ok (.mmc3BankDataW 0x9FFF 0x21)
    ∧ decode ⟨0x00043F10, 0⟩ = .ok (.palR 0x3F10)
    ∧ decode ⟨0x00061243, 0xFF⟩ = .ok (.chrW 0x1243 0xFF)
    ∧ decode ⟨0x04080001, 0⟩ = .ok .mmc3Hook

/-! ### Steps, sessions and reset -/

/-- A step takes the host's next transaction off the stream and performs it: where it decodes, in a session of its
own MAPPER_ID that has been reset (or for RESET itself), the step is `exec` of it (R76, R103, R373; log entries 1
and 16). -/
def Obligations.StepRunsDecoded : Prop :=
  ∀ (s : State) (x : Transaction) (rest : List Transaction) (i : Instr),
    s.loaded = true → s.pending = x :: rest → wordMapper x.word = s.mapper.id → decode x = .ok i →
    (s.started = true ∨ i = .reset) →
    step s = exec i { s with pending := rest }

/-- What the session refuses: no cartridge, another MAPPER_ID, a word of no row, a transaction before the first
RESET (R103, R373). The model's choice: the order of these refusals where several apply, which the spec does not give
(log entry 16), and that with nothing pending a step keeps the state (log entry 1). -/
def Obligations.StepOtherwise : Prop :=
  ∀ (s : State),
    (s.pending = [] → step s = .next s)
    ∧ ∀ (x : Transaction) (rest : List Transaction), s.pending = x :: rest →
      (s.loaded = false → step s = .refused .noCartridge)
      ∧ (s.loaded = true → wordMapper x.word ≠ s.mapper.id → step s = .refused (.otherMapper (wordMapper x.word)))
      ∧ (s.loaded = true → wordMapper x.word = s.mapper.id →
          (∀ e, decode x = .error e → step s = .refused (.undecoded e))
          ∧ (∀ i, decode x = .ok i → i ≠ .reset → s.started = false → step s = .refused .beforeReset))

/-- R371, R372: RESET zeroes the PPU, resets the mapper's registers, recomputes the tables and sets the mirroring; the
cartridge storage, the parameters and the event trace stay. In numbers: the tables of NROM, UXROM and CNROM (R270,
R273, R276), and the mirroring, the header's or that of the reset registers (R255, R297, R320). -/
def Obligations.ResetEffect : Prop :=
  ∀ (s : State),
    let m : Mapper :=
      match s.mapper with
      | .nrom => .nrom
      | .uxrom _ => .uxrom 0
      | .cnrom _ => .cnrom 0
      | .mmc1 _ =>
        .mmc1
          { shiftValue := 0, shiftCount := 0, control := s.params.resetMmc1.control
            chrBank0 := s.params.resetMmc1.chrBank0, chrBank1 := s.params.resetMmc1.chrBank1
            prgBank := s.params.resetMmc1.prgBank }
      | .mmc3 _ =>
        .mmc3
          { bankSelect := s.params.resetMmc3.bankSelect, bankData := s.params.resetMmc3.bankData
            mirroringReg := s.params.resetMmc3.mirroringReg, ramProtect := s.params.resetMmc3.ramProtect
            irqPeriod := s.params.resetMmc3.irqPeriod, irqCounter := 0, irqEnabled := false }
    let zero : SpriteEntry :=
      { id := 0, positionX := 0, positionY := 0, tile := 0, attributes := 0, dataLow := 0, dataHigh := 0 }
    ∃ t, exec .reset s = .next t
      ∧ t = { s with ppu := t.ppu, mapper := m, prgTable := prgTableOf m s.cart.prgBanks
                     chrTable := chrTableOf m (chrBanks s.cart), mirroring := mirroringOf m s.cart.hdrVertical
                     started := true, result := none }
      ∧ (m = .nrom ∨ m = .uxrom 0 ∨ m = .cnrom 0 →
        t.prgTable = [⟨0, 0⟩, ⟨(s.cart.prgBanks - 1) % s.cart.prgBanks, 0⟩] ∧ t.chrTable = [⟨0, 0⟩]
          ∧ t.mirroring = if s.cart.hdrVertical then .vertical else .horizontal)
      ∧ (∀ r, m = .mmc1 r →
        t.mirroring =
          (if r.control.toNat % 4 = 0 then .oneScreenLower else if r.control.toNat % 4 = 1 then .oneScreenUpper
           else if r.control.toNat % 4 = 2 then .vertical else .horizontal))
      ∧ (∀ r, m = .mmc3 r → t.mirroring = if r.mirroringReg then .horizontal else .vertical)
      ∧ t.ppu.v = 0 ∧ t.ppu.t = 0 ∧ t.ppu.fineX = 0 ∧ t.ppu.w = false ∧ t.ppu.readBuffer = 0 ∧ t.ppu.oamAddr = 0
      ∧ t.ppu.control = 0 ∧ t.ppu.mask = 0
      ∧ t.ppu.status = { spriteOverflow := false, spriteZeroHit := false, verticalBlank := false }
      ∧ t.ppu.bgShiftLow = 0 ∧ t.ppu.bgShiftHigh = 0 ∧ t.ppu.atShiftLow = 0 ∧ t.ppu.atShiftHigh = 0
      ∧ t.ppu.atFeedLow = false ∧ t.ppu.atFeedHigh = false ∧ t.ppu.fetchAddr = 0 ∧ t.ppu.ntByte = 0 ∧ t.ppu.atByte = 0
      ∧ t.ppu.patternLow = 0 ∧ t.ppu.patternHigh = 0
      ∧ t.ppu.scanline = 0 ∧ t.ppu.dot = 0 ∧ t.ppu.frameOdd = false
      ∧ (∀ a, byteAt t .oam a = 0) ∧ (∀ a, byteAt t .nt a = 0) ∧ (∀ a, byteAt t .pal a = 0)
      ∧ t.ppu.sprites = List.replicate 8 zero ∧ t.ppu.secondary = List.replicate 8 zero

/-- The state right after reset meets the session's invariant (its cartridge is the model's choice, log entry 4). -/
def Obligations.ResetStateInv : Prop := Inv State.reset

/-- R251 to R253, R346: a path that cannot be opened and a malformed image fail, and leave the cartridge cleared; any
other image is loaded, and starts no session where its MAPPER_ID is outside 0..4; else the session has the image's
geometry, its ROM banks from the image and its RAM banks from CART_RAM_INIT (in the model's form of it, log entry 18),
and the state RESET then leaves meets the session's invariant. -/
def Obligations.LoadRules : Prop :=
  ∀ (s : State),
    (load none s = .fault .cartridgeNotFound
      ∧ (loadCartridge none s).2 = some .cartridgeNotFound ∧ Cleared (loadCartridge none s).1)
    ∧ ∀ (file : List Byte),
      let p := (file.getD 4 0).toNat
      let n := (file.getD 5 0).toNat
      let ramc := (file.getD 8 0).toNat + 1
      let trainer := if (file.getD 6 0).getLsbD 2 then 512 else 0
      let id := (file.getD 7 0).toNat / 16 * 16 + (file.getD 6 0).toNat / 16
      let bad := file.length < 16 ∨ file.take 4 ≠ [0x4E, 0x45, 0x53, 0x1A] ∨ p = 0
        ∨ file.length < 16 + trainer + 16384 * p + 8192 * n
      let after := loadCartridge (some file) s
      (bad →
        load (some file) s = .fault .malformedCartridge ∧ after.2 = some .malformedCartridge ∧ Cleared after.1)
      ∧ (¬ bad → after.2 = none ∧ after.1.loaded = true)
      ∧ (¬ bad → 4 < id → load (some file) s = .refused (.unsupportedMapper (BitVec.ofNat 8 id)))
      ∧ (¬ bad → id ≤ 4 →
          ∃ t, load (some file) s = .next t ∧ t = { after.1 with mapper := t.mapper }
            ∧ t.loaded = true ∧ t.started = false ∧ t.mapper.id.toNat = id
            ∧ t.cart.prgBanks = p ∧ t.cart.chrRomBanks = n ∧ t.cart.ramBanks = ramc
            ∧ t.cart.hdrVertical = (file.getD 6 0).getLsbD 0
            ∧ (∀ j, j < 16384 * p → byteAt t .prg j = file.getD (16 + trainer + j) 0)
            ∧ (0 < n → ∀ j, j < 8192 * n → byteAt t .chr j = file.getD (16 + trainer + 16384 * p + j) 0)
            ∧ (n = 0 → ∀ j, j < 8192 → byteAt t .chr j = initByte s.params.chrRamInit j)
            ∧ (∀ j, j < 8192 * ramc → byteAt t .ram j = initByte s.params.prgRamInit j)
            ∧ ∃ u, exec .reset t = .next u ∧ Inv u)

/-! ### The PPU ports -/

/-- R130: `control <- D` and `t[11:10] <- D[1:0]`. -/
def Obligations.PpuctrlWrite : Prop :=
  ∀ (s : State) (a : Addr) (d : Byte),
    exec (.ppuCtrlW a d) s =
      .next { s with
        ppu := { s.ppu with control := d, t := (s.ppu.t &&& 0x73FF#15) ||| ((d &&& 3#8).setWidth 15 <<< 10) }
        result := none }

/-- R131, R133, R141: PPUMASK and OAMADDR writes set their register, a PPUSTATUS write changes nothing. -/
def Obligations.PlainPortWrites : Prop :=
  ∀ (s : State) (a : Addr) (d : Byte),
    exec (.ppuMaskW a d) s = .next { s with ppu := { s.ppu with mask := d }, result := none }
    ∧ exec (.oamAddrW a d) s = .next { s with ppu := { s.ppu with oamAddr := d }, result := none }
    ∧ exec (.ppuStatusW a d) s = .next { s with result := none }

/-- R134: the byte at `oam_addr`, then `oam_addr` plus one, modulo 256. -/
def Obligations.OamdataWrite : Prop :=
  ∀ (s : State) (a : Addr) (d : Byte), Memory.wf s.ppu.oam →
    ∃ t, exec (.oamDataW a d) s = .next t
      ∧ t = { s with
        ppu := { s.ppu with oam := t.ppu.oam, oamAddr := BitVec.ofNat 8 ((s.ppu.oamAddr.toNat + 1) % 256) }
        result := none }
      ∧ byteAt t .oam s.ppu.oamAddr.toNat = d
      ∧ SameBytesBut .oam s.ppu.oamAddr.toNat s t

/-- R135: X first, Y second; the toggle flips. -/
def Obligations.PpuscrollWrite : Prop :=
  ∀ (s : State) (a : Addr) (d : Byte),
    (s.ppu.w = false →
      exec (.ppuScrollW a d) s =
        .next { s with
          ppu := { s.ppu with
            fineX := (d &&& 7#8).setWidth 3, t := (s.ppu.t &&& 0x7FE0#15) ||| (d >>> 3).setWidth 15, w := true }
          result := none })
    ∧ (s.ppu.w = true →
      exec (.ppuScrollW a d) s =
        .next { s with
          ppu := { s.ppu with
            t := (s.ppu.t &&& 0x0C1F#15) ||| ((d &&& 7#8).setWidth 15 <<< 12) ||| ((d >>> 3).setWidth 15 <<< 5)
            w := false }
          result := none })

/-- R136: the high byte first, the low byte and `v <- t` second; the toggle flips. -/
def Obligations.PpuaddrWrite : Prop :=
  ∀ (s : State) (a : Addr) (d : Byte),
    (s.ppu.w = false →
      exec (.ppuAddrW a d) s =
        .next { s with
          ppu := { s.ppu with t := (s.ppu.t &&& 0x00FF#15) ||| ((d &&& 0x3F#8).setWidth 15 <<< 8), w := true }
          result := none })
    ∧ (s.ppu.w = true →
      exec (.ppuAddrW a d) s =
        .next { s with
          ppu := { s.ppu with
            t := (s.ppu.t &&& 0x7F00#15) ||| d.setWidth 15, v := (s.ppu.t &&& 0x7F00#15) ||| d.setWidth 15, w := false }
          result := none })

/-- R137, R138, R67: the PPU-bus write at `v[13:0]`, then the step of `v`; a bus write that faults leaves no next
state. -/
def Obligations.PpudataWrite : Prop :=
  ∀ (s : State) (a : Addr) (d : Byte), StorageOk s → MemoriesCanonical s →
    let b : PpuAddr := s.ppu.v.setWidth 14
    (0x3F00 ≤ b.toNat →
      ∃ t, exec (.ppuDataW a d) s = .next t
        ∧ t = { s with ppu := { s.ppu with palMem := t.ppu.palMem, v := nextV s }, result := none }
        ∧ byteAt t .pal (palIndex b) = d ∧ SameBytesBut .pal (palIndex b) s t)
    ∧ (0x2000 ≤ b.toNat → b.toNat ≤ 0x3EFF →
      ∃ t, exec (.ppuDataW a d) s = .next t
        ∧ t = { s with ppu := { s.ppu with ntMem := t.ppu.ntMem, v := nextV s }, result := none }
        ∧ byteAt t .nt (ntIndex s.mirroring b) = d ∧ SameBytesBut .nt (ntIndex s.mirroring b) s t)
    ∧ (b.toNat ≤ 0x1FFF → s.cart.chrRomBanks = 0 ∨ s.params.chrRomWrite = .store →
      ∃ bank j t, romCharacter s b.toNat = .ok (bank, j) ∧ exec (.ppuDataW a d) s = .next t
        ∧ t = { s with
          ppu := { s.ppu with v := nextV s }, cart := { s.cart with chr := t.cart.chr }, result := none }
        ∧ byteAt t .chr (bank * 0x2000 + j) = d ∧ SameBytesBut .chr (bank * 0x2000 + j) s t)
    ∧ (b.toNat ≤ 0x1FFF → s.cart.chrRomBanks ≠ 0 → s.params.chrRomWrite = .ignore →
      exec (.ppuDataW a d) s = .next { s with ppu := { s.ppu with v := nextV s }, result := none })
    ∧ (b.toNat ≤ 0x1FFF → s.cart.chrRomBanks ≠ 0 → s.params.chrRomWrite = .fault →
      exec (.ppuDataW a d) s = .fault (.unsupportedMapperAddress b.toNat))

/-- R140, R144 to R148: a read of a write-only port returns a free byte and changes nothing; only the model's own
count of free values moves (log entry 3). -/
def Obligations.OpenBusReads : Prop :=
  ∀ (s : State) (a : Addr) (i : Instr),
    i ∈ [Instr.ppuCtrlR a, .ppuMaskR a, .oamAddrR a, .ppuScrollR a, .ppuAddrR a] →
    exec i s = .next { s with result := some (Config.draw s.draws), draws := s.draws + 1 }

/-- R132: the three flags above five free bits; `vertical_blank` and the toggle are cleared. Only the model's own count
of free values moves besides (log entry 3). -/
def Obligations.PpustatusRead : Prop :=
  ∀ (s : State) (a : Addr),
    ∃ b : Byte,
      exec (.ppuStatusR a) s =
        .next { s with
          ppu := { s.ppu with w := false, status := { s.ppu.status with verticalBlank := false } }
          result := some b, draws := s.draws + 1 }
      ∧ b.getLsbD 7 = s.ppu.status.verticalBlank ∧ b.getLsbD 6 = s.ppu.status.spriteZeroHit
      ∧ b.getLsbD 5 = s.ppu.status.spriteOverflow ∧ ∀ k, k < 5 → b.getLsbD k = (Config.draw s.draws).getLsbD k

/-- R142: the byte at `oam_addr`; nothing else changes. -/
def Obligations.OamdataRead : Prop :=
  ∀ (s : State) (a : Addr),
    exec (.oamDataR a) s = .next { s with result := some (byteAt s .oam s.ppu.oamAddr.toNat) }

/-- R139, R138: below the palette the buffer, which then takes the byte of CHR or of nametable memory on the bus; in the
palette the byte itself, with what that leaves in the buffer; and the step of `v`. -/
def Obligations.PpudataRead : Prop :=
  ∀ (s : State) (a : Addr), StorageOk s →
    let b : PpuAddr := s.ppu.v.setWidth 14
    (b.toNat ≤ 0x1FFF →
      ∃ bank j, romCharacter s b.toNat = .ok (bank, j)
        ∧ exec (.ppuDataR a) s =
          .next { s with
            ppu := { s.ppu with readBuffer := byteAt s .chr (bank * 0x2000 + j), v := nextV s }
            result := some s.ppu.readBuffer })
    ∧ (0x2000 ≤ b.toNat → b.toNat ≤ 0x3EFF →
      exec (.ppuDataR a) s =
        .next { s with
          ppu := { s.ppu with readBuffer := byteAt s .nt (ntIndex s.mirroring b), v := nextV s }
          result := some s.ppu.readBuffer })
    ∧ (0x3F00 ≤ b.toNat →
      exec (.ppuDataR a) s =
        .next { s with
          ppu := { s.ppu with
            readBuffer :=
              match s.params.palReadBuffer with
              | .paletteValue => byteAt s .pal (palIndex b)
              | .underlying => byteAt s .nt (ntIndex s.mirroring (BitVec.ofNat 14 (b.toNat - 0x1000)))
              | .unchanged => s.ppu.readBuffer
            v := nextV s }
          result := some (byteAt s .pal (palIndex b)) })

/-- R143, R341: every CPU address 0x2000..0x3FFF reaches port `addr[2:0]`, and the port function faults on any index of
8 or more. -/
def Obligations.PortDispatch : Prop :=
  (∀ (s : State) (mid : Byte) (a : Addr) (d : Byte), 0x2000 ≤ a.toNat → a.toNat < 0x4000 →
    (∃ i, decode ⟨packWord mid 0 true a, d⟩ = .ok i ∧ exec i s = settle (portWrite (a.toNat % 8) d s))
    ∧ (∃ i, decode ⟨packWord mid 0 false a, d⟩ = .ok i ∧ exec i s = settle (portRead (a.toNat % 8) s)))
  ∧ ∀ (s : State) (p : Nat) (d : Byte), 8 ≤ p →
    portWrite p d s = .error (.unsupportedPpuPort p) ∧ portRead p s = .error (.unsupportedPpuPort p)

/-! ### The cartridge and the PPU bus -/

/-- R241, R249: a PRG read goes through the window table. -/
def Obligations.PrgRead : Prop :=
  ∀ (s : State) (a : Addr), StorageOk s → 0x8000 ≤ a.toNat →
    let off := a.toNat - 0x8000
    let wsize := 0x8000 / prgWindows s.mapper
    ∃ w, s.prgTable[off / wsize]? = some w ∧ w.bank < s.cart.prgBanks ∧ w.offset + off % wsize < 0x4000
      ∧ romProgram s a = .ok (w.bank, w.offset + off % wsize)
      ∧ exec (.prgR a) s =
        .next { s with result := some (byteAt s .prg (w.bank * 0x4000 + (w.offset + off % wsize))) }

/-- R242, R249: a CHR read goes through the window table. -/
def Obligations.ChrRead : Prop :=
  ∀ (s : State) (a : Addr), StorageOk s → a.toNat ≤ 0x1FFF →
    let wsize := 0x2000 / chrWindows s.mapper
    ∃ w, s.chrTable[a.toNat / wsize]? = some w ∧ w.bank < chrBanks s.cart ∧ w.offset + a.toNat % wsize < 0x2000
      ∧ romCharacter s a.toNat = .ok (w.bank, w.offset + a.toNat % wsize)
      ∧ exec (.chrR a) s =
        .next { s with result := some (byteAt s .chr (w.bank * 0x2000 + (w.offset + a.toNat % wsize))) }

/-- R243: a CHR write stores on a CHR RAM board, and does on CHR ROM what P_CHR_ROM_WRITE says. -/
def Obligations.ChrWrite : Prop :=
  ∀ (s : State) (a : Addr) (d : Byte), StorageOk s → Memory.wf s.cart.chr → a.toNat ≤ 0x1FFF →
    (s.cart.chrRomBanks = 0 ∨ s.params.chrRomWrite = .store →
      ∃ bank j t, romCharacter s a.toNat = .ok (bank, j) ∧ exec (.chrW a d) s = .next t
        ∧ t = { s with cart := { s.cart with chr := t.cart.chr }, result := none }
        ∧ byteAt t .chr (bank * 0x2000 + j) = d ∧ SameBytesBut .chr (bank * 0x2000 + j) s t)
    ∧ (s.cart.chrRomBanks ≠ 0 → s.params.chrRomWrite = .ignore →
      exec (.chrW a d) s = .next { s with result := none })
    ∧ (s.cart.chrRomBanks ≠ 0 → s.params.chrRomWrite = .fault →
      exec (.chrW a d) s = .fault (.unsupportedMapperAddress a.toNat))

/-- R244, R247, R248, R323: the RAM window is bank 0 of PRG RAM, behind MMC3's RAM-protect register when that is
enforced. A closed window reads a free byte, with the model's own count of them (log entry 3). -/
def Obligations.RamAccess : Prop :=
  ∀ (s : State) (a : Addr) (d : Byte), GeometryOk s → Memory.wf s.cart.prgRam → ramAddr a = true →
    let gated : Byte → Prop := fun p => ∃ r, s.mapper = .mmc3 r ∧ s.params.mmc3RamProtect = .enforced ∧ r.ramProtect = p
    ((∀ p, gated p → p.getLsbD 7 = true) →
      exec (.ramR a) s = .next { s with result := some (byteAt s .ram (a.toNat - 0x6000)) })
    ∧ ((∃ p, gated p ∧ p.getLsbD 7 = false) →
      exec (.ramR a) s = .next { s with result := some (Config.draw s.draws), draws := s.draws + 1 })
    ∧ ((∀ p, gated p → p.getLsbD 7 = true ∧ p.getLsbD 6 = false) →
      ∃ t, exec (.ramW a d) s = .next t
        ∧ t = { s with cart := { s.cart with prgRam := t.cart.prgRam }, result := none }
        ∧ byteAt t .ram (a.toNat - 0x6000) = d ∧ SameBytesBut .ram (a.toNat - 0x6000) s t)
    ∧ ((∃ p, gated p ∧ (p.getLsbD 7 = false ∨ p.getLsbD 6 = true)) →
      exec (.ramW a d) s = .next { s with result := none })

/-- R69, R81, R82: nametable accesses, on the page that the mirroring gives. -/
def Obligations.NametableAccess : Prop :=
  ∀ (s : State) (a : Addr) (d : Byte), 0x2000 ≤ a.toNat → a.toNat ≤ 0x3EFF → Memory.wf s.ppu.ntMem →
    let r := (a.toNat - 0x2000) % 0x1000
    let page :=
      match s.mirroring with
      | .horizontal => r / 0x800
      | .vertical => r / 0x400 % 2
      | .oneScreenLower => 0
      | .oneScreenUpper => 1
    let n := page * 0x400 + r % 0x400
    n < 2048
    ∧ exec (.ntR a) s = .next { s with result := some (byteAt s .nt n) }
    ∧ ∃ t, exec (.ntW a d) s = .next t
      ∧ t = { s with ppu := { s.ppu with ntMem := t.ppu.ntMem }, result := none }
      ∧ byteAt t .nt n = d ∧ SameBytesBut .nt n s t

/-- R70, R83, R84: palette accesses, with the repetition every 32 bytes and the four aliases, which hold in both
directions. -/
def Obligations.PaletteAccess : Prop :=
  ∀ (s : State) (a : Addr) (d : Byte), 0x3F00 ≤ a.toNat → a.toNat ≤ 0x3FFF → Memory.wf s.ppu.palMem →
    let i := a.toNat % 32
    let n := if 16 ≤ i ∧ i % 4 = 0 then i - 16 else i
    exec (.palR a) s = .next { s with result := some (byteAt s .pal n) }
    ∧ ∃ t, exec (.palW a d) s = .next t
      ∧ t = { s with ppu := { s.ppu with palMem := t.ppu.palMem }, result := none }
      ∧ byteAt t .pal n = d ∧ SameBytesBut .pal n s t
      ∧ ∀ b : Addr, 0x3F00 ≤ b.toNat → b.toNat ≤ 0x3FFF →
        (b.toNat % 32 = i ∨ (i % 4 = 0 ∧ b.toNat % 16 = a.toNat % 16)) →
        exec (.palR b) t = .next { t with result := some d }

/-! ### The mappers -/

/-- R271: every CPU write to the PRG window of an NROM board faults with its address. -/
def Obligations.NromPrgWriteFaults : Prop :=
  ∀ (s : State) (a : Addr) (d : Byte), s.mapper = .nrom →
    exec (.nromPrgW a d) s = .fault (.unsupportedMapperAddress a.toNat)

/-- R272, R275, R278, R300: the hooks of NROM, UXROM, CNROM and MMC1 complete and change nothing. -/
def Obligations.SilentHooks : Prop :=
  ∀ (s : State),
    (s.mapper = .nrom → exec .nromHook s = .next { s with result := none })
    ∧ (∀ sel, s.mapper = .uxrom sel → exec .uxromHook s = .next { s with result := none })
    ∧ (∀ sel, s.mapper = .cnrom sel → exec .cnromHook s = .next { s with result := none })
    ∧ (∀ r, s.mapper = .mmc1 r → exec .mmc1Hook s = .next { s with result := none })

/-- A row of one variant is refused in a session of another (R103; log entry 8). -/
def Obligations.OtherVariantRowRefused : Prop :=
  ∀ (s : State) (a : Addr) (d : Byte),
    (s.mapper.id ≠ 0#8 → ∀ i ∈ [Instr.nromPrgW a d, .nromHook], exec i s = .refused (.otherMapper 0#8))
    ∧ (s.mapper.id ≠ 1#8 →
      ∀ i ∈ [Instr.mmc1ControlW a d, .mmc1Chr0W a d, .mmc1Chr1W a d, .mmc1PrgW a d, .mmc1Hook],
        exec i s = .refused (.otherMapper 1#8))
    ∧ (s.mapper.id ≠ 2#8 → ∀ i ∈ [Instr.uxromBankW a d, .uxromHook], exec i s = .refused (.otherMapper 2#8))
    ∧ (s.mapper.id ≠ 3#8 → ∀ i ∈ [Instr.cnromBankW a d, .cnromHook], exec i s = .refused (.otherMapper 3#8))
    ∧ (s.mapper.id ≠ 4#8 →
      ∀ i ∈ [Instr.mmc3BankSelectW a d, .mmc3BankDataW a d, .mmc3MirroringW a d, .mmc3RamProtectW a d,
          .mmc3IrqLatchW a d, .mmc3IrqReloadW a d, .mmc3IrqDisableW a d, .mmc3IrqEnableW a d, .mmc3Hook],
        exec i s = .refused (.otherMapper 4#8))

/-- R273, R274: `prg_select <- D[3:0]`, and the low window follows it modulo P. -/
def Obligations.UxromBankWrite : Prop :=
  ∀ (s : State) (a : Addr) (d : Byte) (sel : BitVec 4), s.mapper = .uxrom sel → GeometryOk s →
    exec (.uxromBankW a d) s =
      .next { s with
        mapper := .uxrom (d.setWidth 4)
        prgTable := [⟨d.toNat % 16 % s.cart.prgBanks, 0⟩, ⟨s.cart.prgBanks - 1, 0⟩]
        chrTable := [⟨0, 0⟩]
        result := none }

/-- R276, R277: `chr_select <- D[1:0]`, and the CHR window follows it modulo C. -/
def Obligations.CnromBankWrite : Prop :=
  ∀ (s : State) (a : Addr) (d : Byte) (sel : BitVec 2), s.mapper = .cnrom sel →
    exec (.cnromBankW a d) s =
      .next { s with
        mapper := .cnrom (d.setWidth 2)
        prgTable := [⟨0, 0⟩, ⟨(s.cart.prgBanks - 1) % s.cart.prgBanks, 0⟩]
        chrTable := [⟨d.toNat % 4 % (if s.cart.chrRomBanks = 0 then 1 else s.cart.chrRomBanks), 0⟩]
        result := none }

/-- R292: a write with D[7] = 1 clears the shift state and forces PRG mode 3 at once. -/
def Obligations.Mmc1ResetBitWrite : Prop :=
  ∀ (s : State) (r : Mmc1) (a : Addr) (d : Byte) (i : Instr), s.mapper = .mmc1 r → d.getLsbD 7 = true →
    i ∈ [Instr.mmc1ControlW a d, .mmc1Chr0W a d, .mmc1Chr1W a d, .mmc1PrgW a d] →
    exec i s = .next (recomputed (.mmc1 { r with shiftValue := 0, shiftCount := 0, control := r.control ||| 0x0C#5 }) s)

/-- The first four bits only shift; the fifth commits the register of the row's own range (R291, R293 to R296). That a
bit which commits nothing is not followed by a recompute is the model's reading, log entry 12: the pseudocode of R291
taken over R245's "after every CPU write ... that a variant accepts". -/
def Obligations.Mmc1SerialWrite : Prop :=
  ∀ (s : State) (r : Mmc1) (a : Addr) (d : Byte), s.mapper = .mmc1 r → d.getLsbD 7 = false →
    let value : BitVec 5 := (r.shiftValue >>> 1) ||| (if d.getLsbD 0 then 16#5 else 0#5)
    (r.shiftCount < 4 →
      ∀ i ∈ [Instr.mmc1ControlW a d, .mmc1Chr0W a d, .mmc1Chr1W a d, .mmc1PrgW a d],
        exec i s =
          .next { s with
            mapper := .mmc1 { r with shiftValue := value, shiftCount := r.shiftCount + 1 }, result := none })
    ∧ (4 ≤ r.shiftCount →
      ((Instr.mmc1ControlW a d).wf = true →
        exec (.mmc1ControlW a d) s =
          .next (recomputed (.mmc1 { r with control := value, shiftValue := 0, shiftCount := 0 }) s))
      ∧ ((Instr.mmc1Chr0W a d).wf = true →
        exec (.mmc1Chr0W a d) s =
          .next (recomputed (.mmc1 { r with chrBank0 := value, shiftValue := 0, shiftCount := 0 }) s))
      ∧ ((Instr.mmc1Chr1W a d).wf = true →
        exec (.mmc1Chr1W a d) s =
          .next (recomputed (.mmc1 { r with chrBank1 := value, shiftValue := 0, shiftCount := 0 }) s))
      ∧ ((Instr.mmc1PrgW a d).wf = true →
        exec (.mmc1PrgW a d) s =
          .next (recomputed (.mmc1 { r with prgBank := (value &&& 0x0F#5).setWidth 4, shiftValue := 0, shiftCount := 0 })
            s)))

/-- R114, R291: five writes of a value's bits, the least significant first, each by any of the four rows at any address
(five writes to one address among them), load the register of the fifth address. -/
def Obligations.Mmc1FiveWriteLoad : Prop :=
  ∀ (s : State) (r : Mmc1) (v : BitVec 5) (a0 a1 a2 a3 a : Addr) (i0 i1 i2 i3 : Instr),
    s.mapper = .mmc1 r → r.shiftCount = 0 →
    i0 ∈ mmc1Rows a0 (bitByte v 0) → i1 ∈ mmc1Rows a1 (bitByte v 1) → i2 ∈ mmc1Rows a2 (bitByte v 2) →
    i3 ∈ mmc1Rows a3 (bitByte v 3) →
    let first : List Instr := [i0, i1, i2, i3]
    ((Instr.mmc1PrgW a 0).wf = true →
      ∃ t, execAll (first ++ [.mmc1PrgW a (bitByte v 4)]) s = .next t
        ∧ t.mapper = .mmc1 { r with prgBank := v.setWidth 4, shiftValue := 0, shiftCount := 0 })
    ∧ ((Instr.mmc1ControlW a 0).wf = true →
      ∃ t, execAll (first ++ [.mmc1ControlW a (bitByte v 4)]) s = .next t
        ∧ t.mapper = .mmc1 { r with control := v, shiftValue := 0, shiftCount := 0 })
    ∧ ((Instr.mmc1Chr0W a 0).wf = true →
      ∃ t, execAll (first ++ [.mmc1Chr0W a (bitByte v 4)]) s = .next t
        ∧ t.mapper = .mmc1 { r with chrBank0 := v, shiftValue := 0, shiftCount := 0 })
    ∧ ((Instr.mmc1Chr1W a 0).wf = true →
      ∃ t, execAll (first ++ [.mmc1Chr1W a (bitByte v 4)]) s = .next t
        ∧ t.mapper = .mmc1 { r with chrBank1 := v, shiftValue := 0, shiftCount := 0 })

/-- R297 to R299: MMC1's windows and mirroring, in a session (tables and mirroring those of the registers). -/
def Obligations.Mmc1Tables : Prop :=
  ∀ (s : State) (r : Mmc1), s.mapper = .mmc1 r → StorageOk s → MirroringCoherent s →
    let p := s.cart.prgBanks
    let c := chrBanks s.cart
    let unit4 : Nat → Window := fun u => ⟨u % (2 * c) / 2, u % (2 * c) % 2 * 0x1000⟩
    s.prgTable =
      (if r.control.toNat / 4 % 4 = 3 then [⟨r.prgBank.toNat % p, 0⟩, ⟨p - 1, 0⟩]
       else if r.control.toNat / 4 % 4 = 2 then [⟨0, 0⟩, ⟨r.prgBank.toNat % p, 0⟩]
       else [⟨r.prgBank.toNat / 2 * 2 % p, 0⟩, ⟨(r.prgBank.toNat / 2 * 2 + 1) % p, 0⟩])
    ∧ s.chrTable =
      (if r.control.toNat / 16 % 2 = 1 then [unit4 r.chrBank0.toNat, unit4 r.chrBank1.toNat]
       else [unit4 (r.chrBank0.toNat / 2 * 2), unit4 (r.chrBank0.toNat / 2 * 2 + 1)])
    ∧ s.mirroring =
      (if r.control.toNat % 4 = 0 then .oneScreenLower else if r.control.toNat % 4 = 1 then .oneScreenUpper
       else if r.control.toNat % 4 = 2 then .vertical else .horizontal)

/-- R311, R312: bank select, and bank data into the register selected. -/
def Obligations.Mmc3BankPorts : Prop :=
  ∀ (s : State) (r : Mmc3) (a : Addr) (d : Byte), s.mapper = .mmc3 r →
    exec (.mmc3BankSelectW a d) s = .next (recomputed (.mmc3 { r with bankSelect := d }) s)
    ∧ ∃ data,
      exec (.mmc3BankDataW a d) s = .next (recomputed (.mmc3 { r with bankData := data }) s)
      ∧ ∀ k : BitVec 3,
        bankDataGet data k = if k.toNat = r.bankSelect.toNat % 8 then d else bankDataGet r.bankData k

/-- The other six ports; the mirroring is pushed (R313, R314, R316 to R320). That the RAM-protect and IRQ port writes are
followed by the recompute too is the model's reading, log entry 12: R245 and the paragraph before R311, which the
pseudocode of these ports does not repeat. -/
def Obligations.Mmc3OtherPorts : Prop :=
  ∀ (s : State) (r : Mmc3) (a : Addr) (d : Byte), s.mapper = .mmc3 r →
    (∃ t, exec (.mmc3MirroringW a d) s = .next t ∧ t = recomputed (.mmc3 { r with mirroringReg := d.getLsbD 0 }) s
      ∧ t.mirroring = if d.toNat % 2 = 1 then .horizontal else .vertical)
    ∧ exec (.mmc3RamProtectW a d) s = .next (recomputed (.mmc3 { r with ramProtect := d }) s)
    ∧ exec (.mmc3IrqLatchW a d) s = .next (recomputed (.mmc3 { r with irqPeriod := d }) s)
    ∧ exec (.mmc3IrqReloadW a d) s = .next (recomputed (.mmc3 { r with irqCounter := 0#8 }) s)
    ∧ exec (.mmc3IrqDisableW a d) s = .next (recomputed (.mmc3 { r with irqEnabled := false }) s)
    ∧ exec (.mmc3IrqEnableW a d) s = .next (recomputed (.mmc3 { r with irqEnabled := true }) s)

/-- R312, 95_test_vectors.md S3: bank select K at any even address, then D at any odd one, sets R(K mod 8), and
repeated data writes go to the same register. -/
def Obligations.Mmc3SelectThenData : Prop :=
  ∀ (s : State) (r : Mmc3) (a b c : Addr) (k d e : Byte), s.mapper = .mmc3 r →
    (∃ t q, execAll [.mmc3BankSelectW a k, .mmc3BankDataW b d] s = .next t ∧ t.mapper = .mmc3 q
      ∧ bankDataGet q.bankData (k.setWidth 3) = d)
    ∧ ∃ t q, execAll [.mmc3BankSelectW a k, .mmc3BankDataW b d, .mmc3BankDataW c e] s = .next t ∧ t.mapper = .mmc3 q
      ∧ bankDataGet q.bankData (k.setWidth 3) = e

/-- R321: reload a counter of 0, decrement any other, and `irq` when it is then 0 and enabled. -/
def Obligations.Mmc3HookClock : Prop :=
  ∀ (s : State) (r : Mmc3), s.mapper = .mmc3 r →
    let count := if r.irqCounter = 0#8 then r.irqPeriod else r.irqCounter - 1#8
    exec .mmc3Hook s =
      .next { s with
        mapper := .mmc3 { r with irqCounter := count }
        events := if count = 0#8 ∧ r.irqEnabled = true then s.events ++ [.irq] else s.events
        result := none }

/-- R321: after a reload the `irq` comes at hook `irq_period + 1` and not before, and the counter is 0 again. -/
def Obligations.Mmc3IrqPeriod : Prop :=
  ∀ (s : State) (r : Mmc3), s.mapper = .mmc3 r → r.irqCounter = 0#8 → r.irqEnabled = true →
    (∀ k, k ≤ r.irqPeriod.toNat → ∃ t, execAll (List.replicate k .mmc3Hook) s = .next t ∧ t.events = s.events)
    ∧ ∃ t, execAll (List.replicate (r.irqPeriod.toNat + 1) .mmc3Hook) s = .next t
      ∧ t.events = s.events ++ [.irq] ∧ t.mapper = .mmc3 r

/-- R315, R322, R320: MMC3's windows and mirroring in a session; mode 1 exchanges CHR windows 0..3 and 4..7. -/
def Obligations.Mmc3Tables : Prop :=
  ∀ (s : State) (r : Mmc3), s.mapper = .mmc3 r → StorageOk s → MirroringCoherent s →
    let p := s.cart.prgBanks
    let c := chrBanks s.cart
    let unit8 : Nat → Window := fun u => ⟨u % (2 * p) / 2, u % (2 * p) % 2 * 0x2000⟩
    let unit1 : Nat → Window := fun u => ⟨u % (8 * c) / 8, u % (8 * c) % 8 * 0x400⟩
    let b := r.bankData
    let pairs := [unit1 (b.r0.toNat / 2 * 2), unit1 (b.r0.toNat / 2 * 2 + 1), unit1 (b.r1.toNat / 2 * 2),
      unit1 (b.r1.toNat / 2 * 2 + 1)]
    let singles := [unit1 b.r2.toNat, unit1 b.r3.toNat, unit1 b.r4.toNat, unit1 b.r5.toNat]
    s.prgTable =
      (if r.bankSelect.toNat / 64 % 2 = 1 then
        [unit8 (2 * p - 2), unit8 b.r7.toNat, unit8 b.r6.toNat, unit8 (2 * p - 1)]
       else [unit8 b.r6.toNat, unit8 b.r7.toNat, unit8 (2 * p - 2), unit8 (2 * p - 1)])
    ∧ s.chrTable = (if r.bankSelect.toNat / 128 = 1 then singles ++ pairs else pairs ++ singles)
    ∧ s.mirroring = if r.mirroringReg then .horizontal else .vertical

/-! ### The tick -/

/-- R162, R160: in a session a tick completes, and the position advances as Advance() says. -/
def Obligations.TickAdvance : Prop :=
  ∀ (s : State), StorageOk s → PositionOk s →
    let l := s.ppu.scanline
    let d := s.ppu.dot
    let next := l = 261 ∧ d = 339 ∧ s.ppu.frameOdd = true ∧ RenderingOn s ∨ d = 340
    ∃ t, exec .tick s = .next t
      ∧ (¬ next → t.ppu.scanline = l ∧ t.ppu.dot = d + 1 ∧ t.ppu.frameOdd = s.ppu.frameOdd)
      ∧ (next → l < 261 → t.ppu.scanline = l + 1 ∧ t.ppu.dot = 0 ∧ t.ppu.frameOdd = s.ppu.frameOdd)
      ∧ (next → l = 261 → t.ppu.scanline = 0 ∧ t.ppu.dot = 0 ∧ t.ppu.frameOdd = !s.ppu.frameOdd)

/-- What a tick leaves unchanged: the registers the CPU writes, every byte of every memory, the tables, the mirroring,
the cartridge and the session; on the post-render and vertical-blank lines all but `vertical_blank` and the
position (R20, R21, R24, R34, R161). -/
def Obligations.TickFrame : Prop :=
  ∀ (s t : State), exec .tick s = .next t →
    SameBytes s t ∧ SameSession s t
    ∧ t.ppu.t = s.ppu.t ∧ t.ppu.fineX = s.ppu.fineX ∧ t.ppu.w = s.ppu.w ∧ t.ppu.readBuffer = s.ppu.readBuffer
    ∧ t.ppu.oamAddr = s.ppu.oamAddr ∧ t.ppu.control = s.ppu.control ∧ t.ppu.mask = s.ppu.mask
    ∧ t.prgTable = s.prgTable ∧ t.chrTable = s.chrTable ∧ t.mirroring = s.mirroring ∧ t.draws = s.draws
    ∧ t.result = none
    ∧ (t.mapper = s.mapper
      ∨ ∃ r c, s.mapper = .mmc3 r ∧ t.mapper = .mmc3 { r with irqCounter := c } ∧ s.ppu.dot = 260 ∧ OnRenderingLine s
        ∧ RenderingOn s)
    ∧ (¬ OnRenderingLine s →
      SameScroll s t ∧ SamePipeline s t ∧ SameSprites s t ∧ SameMapper s t
        ∧ t.ppu.status.spriteOverflow = s.ppu.status.spriteOverflow
        ∧ t.ppu.status.spriteZeroHit = s.ppu.status.spriteZeroHit)

/-- R180, R181: the status flags at (261, 1) and (241, 1); no other tick moves `vertical_blank`, and no tick but that
clear moves `sprite_0_hit` where no pixel is output, which is at dots 2 to 257 of lines 0 to 239 only (R25, R26, R210,
R215). -/
def Obligations.TickStatus : Prop :=
  ∀ (s : State), StorageOk s →
    ∃ t, exec .tick s = .next t
      ∧ (s.ppu.scanline = 261 → s.ppu.dot = 1 →
        t.ppu.status = { spriteOverflow := false, spriteZeroHit := false, verticalBlank := false })
      ∧ (s.ppu.scanline = 241 → s.ppu.dot = 1 → t.ppu.status = { s.ppu.status with verticalBlank := true })
      ∧ (¬ ((s.ppu.scanline = 261 ∨ s.ppu.scanline = 241) ∧ s.ppu.dot = 1) →
        t.ppu.status.verticalBlank = s.ppu.status.verticalBlank
          ∧ (s.ppu.status.spriteOverflow = true → t.ppu.status.spriteOverflow = true)
          ∧ (s.ppu.status.spriteZeroHit = true → t.ppu.status.spriteZeroHit = true))
      ∧ (¬ (s.ppu.scanline = 261 ∧ s.ppu.dot = 1) →
        ¬ (s.ppu.scanline ≤ 239 ∧ 2 ≤ s.ppu.dot ∧ s.ppu.dot ≤ 257) →
        t.ppu.status.spriteZeroHit = s.ppu.status.spriteZeroHit)

/-- R182 to R184, R352: the events of a tick, by its position, and the hook's effect on the mapper. -/
def Obligations.TickEvents : Prop :=
  ∀ (s : State), StorageOk s →
    let l := s.ppu.scanline
    let d := s.ppu.dot
    let hook := OnRenderingLine s ∧ d = 260 ∧ RenderingOn s
    ∃ t, exec .tick s = .next t
      ∧ (l ≤ 239 → 2 ≤ d → d ≤ 257 → ∃ c, t.events = s.events ++ [.displayWrite (d - 2) l c])
      ∧ (l = 240 → d = 0 → t.events = s.events ++ [.displayUpdate])
      ∧ (l = 241 → d = 1 → s.ppu.control.getLsbD 7 = true → t.events = s.events ++ [.nmi])
      ∧ (hook → (∀ r, s.mapper ≠ .mmc3 r) → t.mapper = s.mapper ∧ t.events = s.events ++ [.mapperHook])
      ∧ (hook → ∀ r, s.mapper = .mmc3 r →
        let count := if r.irqCounter = 0#8 then r.irqPeriod else r.irqCounter - 1#8
        t.mapper = .mmc3 { r with irqCounter := count }
          ∧ t.events = s.events ++ .mapperHook :: (if count = 0#8 ∧ r.irqEnabled = true then [.irq] else []))
      ∧ (¬ hook → t.mapper = s.mapper)
      ∧ (¬ (l ≤ 239 ∧ 2 ≤ d ∧ d ≤ 257) → ¬ (l = 240 ∧ d = 0) →
        ¬ (l = 241 ∧ d = 1 ∧ s.ppu.control.getLsbD 7 = true) → ¬ hook → t.events = s.events)

/-- R176 to R179: what a tick does to `v`, only on a rendering line with rendering on. -/
def Obligations.TickScroll : Prop :=
  ∀ (s : State), StorageOk s →
    let v := s.ppu.v
    let d := s.ppu.dot
    let live := OnRenderingLine s ∧ RenderingOn s
    let coarse := OnFetchDot s ∧ d % 8 = 0
    let vertical := s.ppu.scanline = 261 ∧ 280 ≤ d ∧ d ≤ 304
    ∃ t, exec .tick s = .next t
      ∧ (live → coarse → t.ppu.v = if v.toNat % 32 = 31 then v ^^^ 0x041F#15 else v + 1#15)
      ∧ (live → d = 256 →
        t.ppu.v =
          if v.toNat / 0x1000 < 7 then v + 0x1000#15
          else if v.toNat / 32 % 32 = 29 then (v &&& 0x0C1F#15) ^^^ 0x0800#15
          else if v.toNat / 32 % 32 = 31 then v &&& 0x0C1F#15
          else (v &&& 0x0FFF#15) + 0x0020#15)
      ∧ (live → d = 257 → t.ppu.v = (v &&& 0x7BE0#15) ||| (s.ppu.t &&& 0x041F#15))
      ∧ (live → vertical → t.ppu.v = (v &&& 0x041F#15) ||| (s.ppu.t &&& 0x7BE0#15))
      ∧ (¬ (live ∧ (coarse ∨ d = 256 ∨ d = 257 ∨ vertical)) → t.ppu.v = v)

/-- The fetch latches of a rendering line, dot by dot (R168 to R174). That odd dots of the micro-cycle compute an address
and even dots read it follows the table of R165, against the words of D15: the model's reading, log entry 22. -/
def Obligations.TickFetch : Prop :=
  ∀ (s : State), StorageOk s → OnRenderingLine s →
    let p := s.ppu
    let d := p.dot
    let v := p.v.toNat
    let k := d % 8
    ∃ t, exec .tick s = .next t
      ∧ t.ppu.fetchAddr.toNat =
        (if (d = 1 ∨ d = 321 ∨ d = 339) ∨ (OnFetchDot s ∧ k = 1) then 0x2000 + v % 0x1000
         else if OnFetchDot s ∧ k = 3 then 0x23C0 + v / 0x400 % 4 * 0x400 + v / 128 % 8 * 8 + v / 4 % 8
         else if OnFetchDot s ∧ k = 5 then p.control.toNat / 16 % 2 * 0x1000 + p.ntByte.toNat * 16 + v / 0x1000
         else if OnFetchDot s ∧ k = 7 then (p.fetchAddr.toNat + 8) % 0x4000
         else p.fetchAddr.toNat)
      ∧ (if (OnFetchDot s ∧ k = 2) ∨ d = 338 ∨ d = 340 then ppuBusRead s p.fetchAddr = .ok t.ppu.ntByte
         else t.ppu.ntByte = p.ntByte)
      ∧ (if OnFetchDot s ∧ k = 4 then
          ∃ b, ppuBusRead s p.fetchAddr = .ok b ∧ t.ppu.atByte = b >>> (v / 64 % 2 * 4 + v / 2 % 2 * 2)
         else t.ppu.atByte = p.atByte)
      ∧ (if OnFetchDot s ∧ k = 6 then ppuBusRead s p.fetchAddr = .ok t.ppu.patternLow
         else t.ppu.patternLow = p.patternLow)
      ∧ (if (OnFetchDot s ∧ k = 0) ∨ d = 256 then ppuBusRead s p.fetchAddr = .ok t.ppu.patternHigh
         else t.ppu.patternHigh = p.patternHigh)

/-- R175, R164: the shift at the pixel dots, then the reload at the reload dots, of a rendering line. -/
def Obligations.TickShift : Prop :=
  ∀ (s : State), StorageOk s → OnRenderingLine s →
    let p := s.ppu
    let d := p.dot
    let shifts := (2 ≤ d ∧ d ≤ 257) ∨ (322 ≤ d ∧ d ≤ 337)
    let reloads := (OnFetchDot s ∧ d % 8 = 1) ∨ d = 257
    let low := if shifts then p.bgShiftLow.toNat * 2 % 0x10000 else p.bgShiftLow.toNat
    let high := if shifts then p.bgShiftHigh.toNat * 2 % 0x10000 else p.bgShiftHigh.toNat
    ∃ t, exec .tick s = .next t
      ∧ t.ppu.bgShiftLow.toNat = (if reloads then low / 0x100 * 0x100 + p.patternLow.toNat else low)
      ∧ t.ppu.bgShiftHigh.toNat = (if reloads then high / 0x100 * 0x100 + p.patternHigh.toNat else high)
      ∧ t.ppu.atShiftLow.toNat =
        (if shifts then (p.atShiftLow.toNat * 2 + p.atFeedLow.toNat) % 0x100 else p.atShiftLow.toNat)
      ∧ t.ppu.atShiftHigh.toNat =
        (if shifts then (p.atShiftHigh.toNat * 2 + p.atFeedHigh.toNat) % 0x100 else p.atShiftHigh.toNat)
      ∧ t.ppu.atFeedLow = (if reloads then p.atByte.getLsbD 0 else p.atFeedLow)
      ∧ t.ppu.atFeedHigh = (if reloads then p.atByte.getLsbD 1 else p.atFeedHigh)

/-! ### Sprites and pixels -/

/-- R201, R203: the clear at dot 1; at other dots, or where the actions are gated off, the sprite arrays and
`sprite_overflow` stay. -/
def Obligations.SpriteStepSchedule : Prop :=
  ∀ (s : State), StorageOk s → OnRenderingLine s →
    let d := s.ppu.dot
    let empty : SpriteEntry :=
      { id := 64, positionX := 0xFF, positionY := 0xFF, tile := 0xFF, attributes := 0xFF, dataLow := 0, dataHigh := 0 }
    ∃ t, exec .tick s = .next t
      ∧ (d = 1 → SpriteActionsRun s →
        t.ppu.secondary = List.replicate 8 empty ∧ t.ppu.sprites = s.ppu.sprites)
      ∧ (¬ (SpriteActionsRun s ∧ (d = 1 ∨ d = 257 ∨ d = 321)) → SameSprites s t)
      ∧ (¬ (SpriteActionsRun s ∧ d = 257) → ¬ (s.ppu.scanline = 261 ∧ d = 1) →
        t.ppu.status.spriteOverflow = s.ppu.status.spriteOverflow)

/-- R204, R205: evaluation at dot 257 is the loop of the spec, entry by entry. -/
def Obligations.SpriteEvaluation : Prop :=
  ∀ (s : State), StorageOk s → SlotsOk s → OnRenderingLine s → s.ppu.dot = 257 → SpriteActionsRun s →
    ∃ t, exec .tick s = .next t
      ∧ (t.ppu.secondary, t.ppu.status.spriteOverflow) =
        evaluationLoop (if s.ppu.control.getLsbD 5 then 16 else 8) (if s.ppu.scanline = 261 then -1 else s.ppu.scanline)
          (byteAt s .oam) 64 0 s.ppu.secondary 0 s.ppu.status.spriteOverflow
      ∧ t.ppu.sprites = s.ppu.sprites

/-- The load at dot 321 gives every slot of the secondary buffer its two pattern bytes (R206, R207). The row of a
negative difference (`(L - y) AND (h - 1)` taken in 0..h-1, as on the pre-render line) is the model's reading, log
entry 15. -/
def Obligations.SpriteLoad : Prop :=
  ∀ (s : State), StorageOk s → OnRenderingLine s → s.ppu.dot = 321 → SpriteActionsRun s →
    let line : Int := if s.ppu.scanline = 261 then -1 else s.ppu.scanline
    let tall := s.ppu.control.getLsbD 5
    ∃ t, exec .tick s = .next t
      ∧ t.ppu.secondary = s.ppu.secondary
      ∧ t.ppu.sprites.length = s.ppu.secondary.length
      ∧ ∀ (k : Nat) (e : SpriteEntry), s.ppu.secondary[k]? = some e →
        (e.id = 64#7 → t.ppu.sprites[k]? = some e)
        ∧ (e.id ≠ 64#7 →
          let h : Nat := if tall then 16 else 8
          let row := ((line - e.positionY.toNat) % (h : Int)).toNat
          let row := if e.attributes.getLsbD 7 then h - 1 - row else row
          let addr :=
            if tall then e.tile.toNat % 2 * 0x1000 + e.tile.toNat / 2 * 32 + row + (if 8 ≤ row then 8 else 0)
            else s.ppu.control.toNat / 8 % 2 * 0x1000 + e.tile.toNat * 16 + row
          ∃ lo hi, ppuBusRead s (BitVec.ofNat 14 addr) = .ok lo ∧ ppuBusRead s (BitVec.ofNat 14 (addr + 8)) = .ok hi
            ∧ t.ppu.sprites[k]? = some { e with dataLow := lo, dataHigh := hi })

/-- R211 to R214, R216, R217: where no sprite is shown (sprites off or hidden in the column, or no slot with an opaque
pixel there), a visible dot outputs the background pixel, or the backdrop, through the palette and the 64 colours,
averaged under greyscale. -/
def Obligations.BackgroundPixel : Prop :=
  ∀ (s : State), StorageOk s → s.ppu.scanline ≤ 239 → 2 ≤ s.ppu.dot → s.ppu.dot ≤ 257 →
    let p := s.ppu
    let x := p.dot - 2
    let m := p.mask
    (m.getLsbD 4 = false ∨ (x < 8 ∧ m.getLsbD 2 = false) ∨ ∀ e ∈ p.sprites, ShowsNothing e x) →
    let shown := m.getLsbD 3 = true ∧ (8 ≤ x ∨ m.getLsbD 1 = true)
    let f := p.fineX.toNat
    let pat :=
      if shown then (p.bgShiftHigh.getLsbD (15 - f)).toNat * 2 + (p.bgShiftLow.getLsbD (15 - f)).toNat else 0
    let idx :=
      if pat = 0 then 0
      else (p.atShiftHigh.getLsbD (7 - f)).toNat * 8 + (p.atShiftLow.getLsbD (7 - f)).toNat * 4 + pat
    ∃ t, exec .tick s = .next t ∧ t.events = s.events ++ [.displayWrite x p.scanline (shownColour s idx)]
      ∧ t.ppu.status.spriteZeroHit = s.ppu.status.spriteZeroHit

/-- R213 to R217: where sprites show and a slot has an opaque pixel in the column, the first such slot gives the dot's
colour, unless it lies behind an opaque background; averaged under greyscale; and it is a sprite-0 hit over an opaque
background, if the slot is entry 0, away from column 255. -/
def Obligations.SpritePixelWins : Prop :=
  ∀ (s : State) (before after : List SpriteEntry) (e : SpriteEntry), StorageOk s →
    s.ppu.scanline ≤ 239 → 2 ≤ s.ppu.dot → s.ppu.dot ≤ 257 →
    s.ppu.sprites = before ++ e :: after →
    let p := s.ppu
    let x := p.dot - 2
    let m := p.mask
    (∀ q ∈ before, ShowsNothing q x) → ¬ ShowsNothing e x →
    m.getLsbD 4 = true → (8 ≤ x ∨ m.getLsbD 2 = true) →
    let f := p.fineX.toNat
    let pat :=
      if m.getLsbD 3 = true ∧ (8 ≤ x ∨ m.getLsbD 1 = true) then
        (p.bgShiftHigh.getLsbD (15 - f)).toNat * 2 + (p.bgShiftLow.getLsbD (15 - f)).toNat
      else 0
    let bg := (p.atShiftHigh.getLsbD (7 - f)).toNat * 8 + (p.atShiftLow.getLsbD (7 - f)).toNat * 4 + pat
    let idx :=
      if pat = 0 ∨ e.attributes.getLsbD 5 = false then 16 + e.attributes.toNat % 4 * 4 + spriteValue e x else bg
    ∃ t, exec .tick s = .next t ∧ t.events = s.events ++ [.displayWrite x p.scanline (shownColour s idx)]
      ∧ t.ppu.status.spriteZeroHit = (s.ppu.status.spriteZeroHit || (e.id == 0#7 && pat != 0 && x != 255))

/-- R163: from the first position of a frame, 89342 ticks lead to the first position of the next, and 89341 where the
frame is odd and rendering is on. -/
def Obligations.FrameLength : Prop :=
  ∀ (s : State), StorageOk s → s.ppu.scanline = 0 → s.ppu.dot = 0 →
    let ticks := if s.ppu.frameOdd = true ∧ RenderingOn s then 89341 else 89342
    ∃ t, execAll (List.replicate ticks .tick) s = .next t
      ∧ t.ppu.scanline = 0 ∧ t.ppu.dot = 0 ∧ t.ppu.frameOdd = !s.ppu.frameOdd

/-! ### The whole machine -/

/-- The session's invariant is kept by every step: the position in range, the memories canonical, eight slots, the
tables and the mirroring those of the mapper's registers, `shift_count` in 0..4 (R23, R28, R31, R32, R245, R290). -/
def Obligations.StepKeepsInv : Prop := ∀ (s t : State), Inv s → step s = .next t → Inv t

/-- R342, R341, R343: in a session the only fault of a transaction is UnsupportedMapperAddress, raised by a CPU write to
the PRG window on NROM and by a PPU-bus write to CHR ROM under P_CHR_ROM_WRITE = Fault. -/
def Obligations.FaultsOnlyWhereStated : Prop :=
  ∀ (s : State) (i : Instr) (f : Fault), StorageOk s → i.wf = true → exec i s = .fault f →
    (∃ a d, i = .nromPrgW a d ∧ s.mapper = .nrom ∧ f = .unsupportedMapperAddress a.toNat)
    ∨ (s.cart.chrRomBanks ≠ 0 ∧ s.params.chrRomWrite = .fault
      ∧ ((∃ a d, i = .chrW a d ∧ f = .unsupportedMapperAddress a.toNat)
        ∨ ∃ a d, i = .ppuDataW a d ∧ f = .unsupportedMapperAddress (s.ppu.v.toNat % 0x4000)))

/-- No transaction writes PRG ROM, changes the geometry, the parameters, the variant or the session's load, or takes
from the host's stream; only TICK and RESET move the position (R5, R23, R34, R240). -/
def Obligations.SessionKept : Prop :=
  ∀ (s t : State) (i : Instr), exec i s = .next t →
    t.cart.prgRom = s.cart.prgRom ∧ t.cart.prgBanks = s.cart.prgBanks ∧ t.cart.chrRomBanks = s.cart.chrRomBanks
    ∧ t.cart.ramBanks = s.cart.ramBanks ∧ t.cart.hdrVertical = s.cart.hdrVertical ∧ t.params = s.params
    ∧ t.mapper.id = s.mapper.id ∧ t.loaded = s.loaded ∧ t.pending = s.pending
    ∧ (i ≠ .tick → i ≠ .reset → SamePosition s t)

/-- R351: the trace only grows; `nmi` comes from a tick at (241, 1) with `nmi_enable` set, `irq` from an MMC3 hook with
`irq_enabled` set, the hook of a tick or a MAPPER_HOOK transaction, and no other transaction than a tick or that
hook emits anything. -/
def Obligations.EventsOnlyWhereStated : Prop :=
  ∀ (s t : State) (i : Instr), exec i s = .next t →
    ∃ new, t.events = s.events ++ new
      ∧ (.nmi ∈ new → i = .tick ∧ s.ppu.scanline = 241 ∧ s.ppu.dot = 1 ∧ s.ppu.control.getLsbD 7 = true)
      ∧ (.irq ∈ new → (i = .mmc3Hook ∨ (i = .tick ∧ OnRenderingLine s ∧ s.ppu.dot = 260 ∧ RenderingOn s))
        ∧ ∃ r, s.mapper = .mmc3 r ∧ r.irqEnabled = true)
      ∧ (new ≠ [] → i = .tick ∨ i = .mmc3Hook)

/-! ### The bytes that the PPU fetches -/

/-- R66: a PPU-bus read gives the byte that CHR_R, NT_R or PAL_R returns at the address, by its region: a byte of the
CHR bank of `rom_character`, of nametable memory, or of the palette. It changes no state. -/
def Obligations.PpuBusReadByte : Prop :=
  ∀ (s : State) (a : Addr), StorageOk s → a.toNat ≤ 0x3FFF →
    let b : PpuAddr := a.setWidth 14
    (a.toNat ≤ 0x1FFF →
      ∃ bank j, romCharacter s a.toNat = .ok (bank, j)
        ∧ ppuBusRead s b = .ok (byteAt s .chr (bank * 0x2000 + j))
        ∧ exec (.chrR a) s = .next { s with result := some (byteAt s .chr (bank * 0x2000 + j)) })
    ∧ (0x2000 ≤ a.toNat → a.toNat ≤ 0x3EFF →
      ppuBusRead s b = .ok (byteAt s .nt (ntIndex s.mirroring b))
        ∧ exec (.ntR a) s = .next { s with result := some (byteAt s .nt (ntIndex s.mirroring b)) })
    ∧ (0x3F00 ≤ a.toNat →
      ppuBusRead s b = .ok (byteAt s .pal (palIndex b))
        ∧ exec (.palR a) s = .next { s with result := some (byteAt s .pal (palIndex b)) })
end

