-- ==== Sys2Proof/Laws/Decode.lean ====
section
/-! SUPPORT. The fields of a packed word (R100), a word rebuilt from its fields, and when a table row hits a
packed word (R103). -/

namespace Sys2Proof

@[simp] theorem wordAddr_packWord (m : Byte) (sp : BitVec 2) (rw : Bool) (a : Addr) :
    wordAddr (packWord m sp rw a) = a := by
  simp only [wordAddr, packWord]
  rw [BitVec.extractLsb'_append_eq_of_add_le (by decide)]
  simp

@[simp] theorem wordSpace_packWord (m : Byte) (sp : BitVec 2) (rw : Bool) (a : Addr) :
    wordSpace (packWord m sp rw a) = sp := by
  simp only [wordSpace, packWord]
  rw [BitVec.extractLsb'_append_eq_of_le (by decide), BitVec.extractLsb'_append_eq_of_le (by decide),
    BitVec.extractLsb'_append_eq_of_le (by decide), BitVec.extractLsb'_append_eq_of_add_le (by decide)]
  simp

@[simp] theorem wordMapper_packWord (m : Byte) (sp : BitVec 2) (rw : Bool) (a : Addr) :
    wordMapper (packWord m sp rw a) = m := by
  simp only [wordMapper, packWord]
  rw [BitVec.extractLsb'_append_eq_of_le (by decide), BitVec.extractLsb'_append_eq_of_le (by decide),
    BitVec.extractLsb'_append_eq_of_le (by decide), BitVec.extractLsb'_append_eq_of_le (by decide),
    BitVec.extractLsb'_append_eq_of_le (by decide)]
  simp

@[simp] theorem wordWrite_packWord (m : Byte) (sp : BitVec 2) (rw : Bool) (a : Addr) :
    wordWrite (packWord m sp rw a) = rw := by
  simp only [wordWrite, packWord, BitVec.getLsbD_append]
  simp

@[simp] theorem wordReservedZero_packWord (m : Byte) (sp : BitVec 2) (rw : Bool) (a : Addr) :
    wordReservedZero (packWord m sp rw a) = true := by
  have h : (packWord m sp rw a).extractLsb' 20 4 = 0#4 := by
    simp only [packWord]
    rw [BitVec.extractLsb'_append_eq_of_le (by decide), BitVec.extractLsb'_append_eq_of_le (by decide),
      BitVec.extractLsb'_append_eq_of_le (by decide), BitVec.extractLsb'_append_eq_of_le (by decide),
      BitVec.extractLsb'_append_eq_of_add_le (by decide)]
    simp
  have h16 : (packWord m sp rw a).getLsbD 16 = false := by
    simp only [packWord, BitVec.getLsbD_append]
    simp
  simp only [wordReservedZero, h, h16, beq_self_eq_true, Bool.not_false, Bool.and_self]

/-- A word whose reserved bits are 0 is the word of its fields (R100). -/
theorem packWord_fields (w : Word) (h : wordReservedZero w = true) :
    packWord (wordMapper w) (wordSpace w) (wordWrite w) (wordAddr w) = w := by
  simp only [wordReservedZero, Bool.and_eq_true, beq_iff_eq, Bool.not_eq_true'] at h
  obtain ⟨h1, h2⟩ := h
  have b : ∀ k, k < 4 → w.getLsbD (20 + k) = false := by
    intro k hk
    have := congrArg (fun x => BitVec.getLsbD x k) h1
    simpa [BitVec.getLsbD_extractLsb', hk] using this
  apply BitVec.eq_of_getLsbD_eq
  intro i hi
  simp only [packWord, wordMapper, wordSpace, wordWrite, wordAddr, BitVec.getLsbD_append, BitVec.getLsbD_extractLsb']
  rcases (by omega : i < 16 ∨ i = 16 ∨ i = 17 ∨ i = 18 ∨ i = 19 ∨ i = 20 ∨ i = 21 ∨ i = 22 ∨ i = 23 ∨ 24 ≤ i)
    with hlt | rfl | rfl | rfl | rfl | rfl | rfl | rfl | rfl | hge
  · simp [hlt]
  · simpa using h2.symm
  · simp
  · simp
  · simp
  · simpa using (b 0 (by omega)).symm
  · simpa using (b 1 (by omega)).symm
  · simpa using (b 2 (by omega)).symm
  · simpa using (b 3 (by omega)).symm
  · have e : 24 + (i - 16 - 1 - 1 - 2 - 4) = i := by omega
    have : ¬ i < 16 ∧ ¬ i - 16 < 1 ∧ ¬ i - 16 - 1 < 1 ∧ ¬ i - 16 - 1 - 1 < 2 ∧ ¬ i - 16 - 1 - 1 - 2 < 4 := by omega
    have lt : i - 16 - 1 - 1 - 2 - 4 < 8 := by omega
    simp [this, e, lt]

/-- Bits 23:16 of a packed word. -/
theorem packWord_eq_append (m : Byte) (sp : BitVec 2) (rw : Bool) (a : Addr) :
    packWord m sp rw a = m ++ (0#4 ++ sp ++ BitVec.ofBool rw ++ 0#1) ++ a := by
  apply BitVec.eq_of_getLsbD_eq
  intro i hi
  simp only [packWord, BitVec.getLsbD_append]
  rcases (by omega : i < 16 ∨ i = 16 ∨ i = 17 ∨ i = 18 ∨ i = 19 ∨ i = 20 ∨ i = 21 ∨ i = 22 ∨ i = 23 ∨ 24 ≤ i)
    with hlt | rfl | rfl | rfl | rfl | rfl | rfl | rfl | rfl | hge
  · simp [hlt]
  all_goals try simp
  · have e : i - 16 - 1 - 1 - 2 - 4 = i - 16 - 8 := by omega
    have h1 : ¬ i - 16 = 0 := by omega
    have h2 : ¬ i - 16 - 1 = 0 := by omega
    have h3 : ¬ i ≤ 19 := by omega
    have h4 : ¬ i - 16 < 8 := by omega
    have h5 : ¬ i < 16 := by omega
    have h6 : ¬ i - 16 - 1 - 1 - 2 < 4 := by omega
    simp [e, h1, h2, h3, h4, h5, h6]

/-- A row whose mask covers bits 23:16 hits a packed word when its three parts do (R103). -/
theorem hits_packWord (mm mp : Byte) (cp : Byte) (am ap : Addr) (m : Byte) (sp : BitVec 2) (rw : Bool) (a : Addr)
    (hm : m &&& mm = mp) (hc : 0#4 ++ sp ++ BitVec.ofBool rw ++ 0#1 = cp) (ha : a &&& am = ap) :
    Row.hits ⟨mm ++ 0xFF#8 ++ am, mp ++ cp ++ ap⟩ (packWord m sp rw a) = true := by
  subst hm hc ha
  have e1 : (m ++ (0#4 ++ sp ++ BitVec.ofBool rw ++ 0#1) ++ a) &&& (mm ++ 0xFF#8 ++ am)
      = ((m ++ (0#4 ++ sp ++ BitVec.ofBool rw ++ 0#1)) &&& (mm ++ 0xFF#8)) ++ (a &&& am) := BitVec.and_append
  have e2 : (m ++ (0#4 ++ sp ++ BitVec.ofBool rw ++ 0#1)) &&& (mm ++ 0xFF#8)
      = (m &&& mm) ++ ((0#4 ++ sp ++ BitVec.ofBool rw ++ 0#1) &&& 0xFF#8) := BitVec.and_append
  have e3 : (0#4 ++ sp ++ BitVec.ofBool rw ++ 0#1 : BitVec 8) &&& 0xFF#8 = 0#4 ++ sp ++ BitVec.ofBool rw ++ 0#1 :=
    BitVec.and_allOnes
  rw [e3] at e2
  rw [e2] at e1
  simp only [Row.hits, packWord_eq_append, beq_iff_eq]
  exact e1

/-! ### Address masks -/

/-- A masked address, masked further. -/
theorem and_sub {a m k r : Addr} (h : a &&& m = r) (hk : m &&& k = k) : a &&& k = r &&& k := by
  rw [← h, BitVec.and_assoc, hk]

/-- The port number of an address of a port (R143). -/
theorem ext_low3 {a r : Addr} (h : a &&& 0xE007#16 = r) : a.extractLsb' 0 3 = r.extractLsb' 0 3 := by
  rw [← h]
  apply BitVec.eq_of_getLsbD_eq
  intro i hi
  simp only [BitVec.getLsbD_extractLsb', BitVec.getLsbD_and]
  interval_cases i <;> simp

/-- Bits 14:13 of a masked address. -/
theorem ext_mid {a m r : Addr} (h : a &&& m = r) (hm : m &&& 0x6000#16 = 0x6000#16) : a.extractLsb' 13 2 = r.extractLsb' 13 2 := by
  have h2 := and_sub h hm
  have : ∀ x : Addr, x.extractLsb' 13 2 = (x &&& 0x6000#16).extractLsb' 13 2 := by
    intro x
    apply BitVec.eq_of_getLsbD_eq
    intro i hi
    simp only [BitVec.getLsbD_extractLsb', BitVec.getLsbD_and]
    interval_cases i <;> simp
  rw [this a, this r, h2]

/-- Bit 0 of an address of an MMC3 port. -/
theorem bit0_of {a r : Addr} (h : a &&& 0xE001#16 = r) : a.getLsbD 0 = r.getLsbD 0 := by
  rw [← h]; simp

/-- A mask of the high bits, in numbers. -/
theorem mask_nat (a r : Addr) (m : Addr) (k : Nat) (hm : ∀ x : Addr, x &&& m = (x >>> k) <<< k) :
    a &&& m = r ↔ a.toNat / 2 ^ k * 2 ^ k = r.toNat := by
  have e : (a &&& m).toNat = a.toNat / 2 ^ k * 2 ^ k := by
    rw [hm, BitVec.toNat_shiftLeft, BitVec.toNat_ushiftRight, Nat.shiftLeft_eq, Nat.shiftRight_eq_div_pow]
    apply Nat.mod_eq_of_lt
    have := Nat.div_mul_le_self a.toNat (2 ^ k)
    have := a.isLt
    omega
  rw [← e, BitVec.toNat_inj]

/-- An 8 KB block, in numbers. -/
theorem mask13 (a r : Addr) : a &&& 0xE000#16 = r ↔ a.toNat / 0x2000 * 0x2000 = r.toNat := by
  refine mask_nat a r _ 13 (fun x => ?_)
  apply BitVec.eq_of_getLsbD_eq
  intro i hi
  simp only [BitVec.getLsbD_and, BitVec.getLsbD_shiftLeft, BitVec.getLsbD_ushiftRight]
  interval_cases i <;> simp

/-- The PRG window, in numbers. -/
theorem mask15 (a r : Addr) : a &&& 0x8000#16 = r ↔ a.toNat / 0x8000 * 0x8000 = r.toNat := by
  refine mask_nat a r _ 15 (fun x => ?_)
  apply BitVec.eq_of_getLsbD_eq
  intro i hi
  simp only [BitVec.getLsbD_and, BitVec.getLsbD_shiftLeft, BitVec.getLsbD_ushiftRight]
  interval_cases i <;> simp

/-- A 256-byte block, in numbers. -/
theorem mask8 (a r : Addr) : a &&& 0xFF00#16 = r ↔ a.toNat / 0x100 * 0x100 = r.toNat := by
  refine mask_nat a r _ 8 (fun x => ?_)
  apply BitVec.eq_of_getLsbD_eq
  intro i hi
  simp only [BitVec.getLsbD_and, BitVec.getLsbD_shiftLeft, BitVec.getLsbD_ushiftRight]
  interval_cases i <;> simp

/-- Two masks together. -/
theorem and_join {a m n r q : Addr} (h1 : a &&& m = r) (h2 : a &&& n = q) : a &&& (m ||| n) = r ||| q := by
  rw [← h1, ← h2]
  apply BitVec.eq_of_getLsbD_eq
  intro i hi
  simp only [BitVec.getLsbD_and, BitVec.getLsbD_or]
  cases a.getLsbD i <;> simp

/-- The mask of bits 2:0 from their number. -/
theorem low3_mask (a : Addr) (k : Nat) (h : (a.extractLsb' 0 3).toNat = k) : a &&& 0x0007#16 = BitVec.ofNat 16 k := by
  subst h
  apply BitVec.eq_of_getLsbD_eq
  intro i hi
  have e : BitVec.ofNat 16 (a.extractLsb' 0 3).toNat = (a.extractLsb' 0 3).setWidth 16 := by
    apply BitVec.eq_of_toNat_eq; simp
  rw [e]
  simp only [BitVec.getLsbD_and, BitVec.getLsbD_setWidth, BitVec.getLsbD_extractLsb']
  interval_cases i <;> simp

/-- The mask of bits 14:13 from their number. -/
theorem mid_mask (a : Addr) (k : Nat) (h : (a.extractLsb' 13 2).toNat = k) : a &&& 0x6000#16 = BitVec.ofNat 16 k <<< 13 := by
  subst h
  apply BitVec.eq_of_getLsbD_eq
  intro i hi
  have e : BitVec.ofNat 16 (a.extractLsb' 13 2).toNat = (a.extractLsb' 13 2).setWidth 16 := by
    apply BitVec.eq_of_toNat_eq; simp
  rw [e]
  simp only [BitVec.getLsbD_and, BitVec.getLsbD_shiftLeft, BitVec.getLsbD_setWidth, BitVec.getLsbD_extractLsb']
  interval_cases i <;> simp

/-- The mask of bit 0 from its value. -/
theorem bit0_mask (a : Addr) (b : Bool) (h : a.getLsbD 0 = b) : a &&& 0x0001#16 = if b then 1#16 else 0#16 := by
  subst h
  apply BitVec.eq_of_getLsbD_eq
  intro i hi
  simp only [BitVec.getLsbD_and]
  interval_cases i <;> cases a.getLsbD 0 <;> simp

/-- An address of the PPU block is an address of its port (R143). -/
theorem port_of (a : Addr) (k : Nat) (h1 : a &&& 0xE000#16 = 0x2000#16) (h2 : (a.extractLsb' 0 3).toNat = k) :
    portAddr (BitVec.ofNat 16 k) a = true := by
  have := and_join h1 (low3_mask a k h2)
  simp only [portAddr, beq_iff_eq]
  exact this

/-- A PRG address is an address of its MMC1 range (R105). -/
theorem mmc1_of (a : Addr) (k : Nat) (h1 : prgAddr a = true) (h2 : (a.extractLsb' 13 2).toNat = k) :
    mmc1Addr (0x8000#16 ||| BitVec.ofNat 16 k <<< 13) a = true := by
  simp only [prgAddr, beq_iff_eq] at h1
  have := and_join h1 (mid_mask a k h2)
  simp only [mmc1Addr, beq_iff_eq]
  exact this

/-- A PRG address is an address of its MMC3 port (R105). -/
theorem mmc3_of (a : Addr) (k : Nat) (b : Bool) (h1 : prgAddr a = true) (h2 : (a.extractLsb' 13 2).toNat = k) (h3 : a.getLsbD 0 = b) :
    mmc3Addr (0x8000#16 ||| BitVec.ofNat 16 k <<< 13 ||| (if b then 1#16 else 0#16)) a = true := by
  simp only [prgAddr, beq_iff_eq] at h1
  have := and_join (and_join h1 (mid_mask a k h2)) (bit0_mask a b h3)
  simp only [mmc3Addr, beq_iff_eq]
  exact this

/-- A CHR address lies in 0x0000..0x1FFF (R106). -/
theorem chrAddr_le (a : Addr) (h : chrAddr a = true) : a.toNat ≤ 0x1FFF := by
  have : a &&& 0xE000#16 = (a >>> 13) <<< 13 := by
    apply BitVec.eq_of_getLsbD_eq
    intro i hi
    simp only [BitVec.getLsbD_and, BitVec.getLsbD_shiftLeft, BitVec.getLsbD_ushiftRight]
    interval_cases i <;> simp
  simp only [chrAddr, beq_iff_eq, this] at h
  have h := congrArg BitVec.toNat h
  have := a.isLt
  simp only [BitVec.toNat_shiftLeft, BitVec.toNat_ushiftRight, BitVec.toNat_ofNat, Nat.shiftLeft_eq, Nat.shiftRight_eq_div_pow] at h
  omega

/-- A PRG address lies in 0x8000..0xFFFF (R105). -/
theorem prgAddr_ge (a : Addr) (h : prgAddr a = true) : 0x8000 ≤ a.toNat := by
  have : a &&& 0x8000#16 = (a >>> 15) <<< 15 := by
    apply BitVec.eq_of_getLsbD_eq
    intro i hi
    simp only [BitVec.getLsbD_and, BitVec.getLsbD_shiftLeft, BitVec.getLsbD_ushiftRight]
    interval_cases i <;> simp
  simp only [prgAddr, beq_iff_eq, this] at h
  have h := congrArg BitVec.toNat h
  have := a.isLt
  simp only [BitVec.toNat_shiftLeft, BitVec.toNat_ushiftRight, BitVec.toNat_ofNat, Nat.shiftLeft_eq, Nat.shiftRight_eq_div_pow] at h
  omega

/-! ### Decoding a packed word -/

/-- Decoding the word of given fields (R100). -/
theorem decode_packWord (mid : Byte) (sp : BitVec 2) (rw : Bool) (a : Addr) (d : Byte) :
    decode ⟨packWord mid sp rw a, d⟩ =
      match sp.toNat with
      | 0 => decodeCpu mid rw a d
      | 1 => decodePpu rw a d
      | 2 => decodeControl mid rw a
      | _ => .error .reservedSpace := by
  simp only [decode, wordReservedZero_packWord, wordSpace_packWord, wordMapper_packWord, wordWrite_packWord, wordAddr_packWord, if_true] <;> rfl

/-- An address of port `p` decodes to the port rows (R104). -/
theorem port_ok (p : Addr) (a : Addr) (mid d : Byte) (rw : Bool) (h : portAddr p a = true) (hp : p.toNat < 8) :
    decodeCpu mid rw a d = .ok (if rw then decodePortWrite a d else decodePortRead a) ∧ (a.extractLsb' 0 3).toNat = p.toNat := by
  simp only [portAddr, beq_iff_eq] at h
  have hp' : p = BitVec.ofNat 16 p.toNat := by simp
  have h1 : a &&& 0xE000#16 = 0x2000#16 := by
    rw [and_sub h (by decide)]
    rw [hp']
    generalize p.toNat = n at hp
    interval_cases n <;> decide
  refine ⟨by simp only [decodeCpu, if_pos h1], ?_⟩
  rw [ext_low3 h, hp']
  generalize p.toNat = n at hp
  interval_cases n <;> decide

/-- A PRG address decodes to PRG_R or a mapper write (R105). -/
theorem prg_ok (a : Addr) (mid d : Byte) (rw : Bool) (h : prgAddr a = true) :
    decodeCpu mid rw a d = if rw then decodeMapperWrite mid a d else .ok (.prgR a) := by
  have h' := h
  simp only [prgAddr, beq_iff_eq] at h'
  have n1 : ¬ a &&& 0xE000#16 = 0x2000#16 := by
    intro e
    have := and_sub e (k := 0x8000#16) (by decide)
    rw [h'] at this
    exact absurd this (by decide)
  have n2 : ¬ ramAddr a = true := by
    simp only [ramAddr, beq_iff_eq]
    intro e
    have := and_sub e (k := 0x8000#16) (by decide)
    rw [h'] at this
    exact absurd this (by decide)
  simp only [decodeCpu, if_neg n1, n2, if_true, h]
  simp

/-- A RAM address decodes to the RAM rows (R105). -/
theorem ram_ok (a : Addr) (mid d : Byte) (rw : Bool) (h : ramAddr a = true) :
    decodeCpu mid rw a d = .ok (if rw then .ramW a d else .ramR a) := by
  have h' := h
  simp only [ramAddr, beq_iff_eq] at h'
  have n1 : ¬ a &&& 0xE000#16 = 0x2000#16 := by rw [h']; decide
  simp only [decodeCpu, if_neg n1, h, if_true]

/-- An address of an MMC1 range is a PRG address with the range's bits 14:13. -/
theorem mmc1_ok (base a : Addr) (h : mmc1Addr base a = true) (hb : base &&& 0x8000#16 = 0x8000#16) :
    prgAddr a = true ∧ a.extractLsb' 13 2 = base.extractLsb' 13 2 := by
  simp only [mmc1Addr, beq_iff_eq] at h
  refine ⟨?_, ext_mid h (by decide)⟩
  simp only [prgAddr, beq_iff_eq, and_sub h (k := 0x8000#16) (by decide), hb]

/-- An address of an MMC3 port is a PRG address with the port's bits 14:13 and 0. -/
theorem mmc3_ok (base a : Addr) (h : mmc3Addr base a = true) (hb : base &&& 0x8000#16 = 0x8000#16) :
    prgAddr a = true ∧ a.extractLsb' 13 2 = base.extractLsb' 13 2 ∧ a.getLsbD 0 = base.getLsbD 0 := by
  simp only [mmc3Addr, beq_iff_eq] at h
  refine ⟨?_, ext_mid h (by decide), bit0_of h⟩
  simp only [prgAddr, beq_iff_eq, and_sub h (k := 0x8000#16) (by decide), hb]

/-- A palette address is no CHR address. -/
theorem pal_not_chr (a : Addr) (h : palAddr a = true) : chrAddr a = false := by
  simp only [palAddr, beq_iff_eq] at h
  have := and_sub h (k := 0xE000#16) (by decide)
  simp only [chrAddr, this]
  decide

/-- A nametable address is neither a CHR nor a palette address. -/
theorem nt_ok (a : Addr) (h : ntAddr a = true) : chrAddr a = false ∧ palAddr a = false := by
  simp only [ntAddr, Bool.and_eq_true, beq_iff_eq, Bool.not_eq_true'] at h
  refine ⟨?_, h.2⟩
  simp only [chrAddr, h.1]
  decide

/-- A decoded port write is well-formed, and encoded by its word (R104). -/
theorem portWrite_wf (a : Addr) (d : Byte) (h1 : a &&& 0xE000#16 = 0x2000#16) (mid : Byte) :
    (decodePortWrite a d).wf = true ∧ encode mid (decodePortWrite a d) = ⟨packWord mid 0#2 true a, d⟩ := by
  have hp := port_of a _ h1 rfl
  have hlt := (a.extractLsb' 0 3).isLt
  simp only [decodePortWrite]
  generalize (a.extractLsb' 0 3).toNat = k at *
  interval_cases k <;> exact ⟨hp, rfl⟩

/-- A decoded port read is well-formed, and encoded by its word (R104). -/
theorem portRead_wf (a : Addr) (h1 : a &&& 0xE000#16 = 0x2000#16) (mid : Byte) :
    (decodePortRead a).wf = true ∧ encode mid (decodePortRead a) = ⟨packWord mid 0#2 false a, 0#8⟩ := by
  have hp := port_of a _ h1 rfl
  have hlt := (a.extractLsb' 0 3).isLt
  simp only [decodePortRead]
  generalize (a.extractLsb' 0 3).toNat = k at *
  interval_cases k <;> exact ⟨hp, rfl⟩

/-- A decoded MMC1 write is well-formed, and encoded by its word (R105). -/
theorem mmc1W_wf (a : Addr) (d : Byte) (h1 : prgAddr a = true) (mid : Byte) :
    (decodeMmc1Write a d).wf = true ∧ encode mid (decodeMmc1Write a d) = ⟨packWord 1#8 0#2 true a, d⟩ := by
  have hp := mmc1_of a _ h1 rfl
  have hlt := (a.extractLsb' 13 2).isLt
  simp only [decodeMmc1Write]
  generalize (a.extractLsb' 13 2).toNat = k at *
  interval_cases k <;> exact ⟨hp, rfl⟩

/-- A decoded MMC3 write is well-formed, and encoded by its word (R105). -/
theorem mmc3W_wf (a : Addr) (d : Byte) (h1 : prgAddr a = true) (mid : Byte) :
    (decodeMmc3Write a d).wf = true ∧ encode mid (decodeMmc3Write a d) = ⟨packWord 4#8 0#2 true a, d⟩ := by
  have hp := mmc3_of a _ _ h1 rfl rfl
  have hlt := (a.extractLsb' 13 2).isLt
  simp only [decodeMmc3Write]
  generalize (a.extractLsb' 13 2).toNat = k at *
  generalize a.getLsbD 0 = b at *
  interval_cases k <;> cases b <;> exact ⟨hp, rfl⟩

/-! ### Rows -/

/-- What a row that hits a packed word says of its fields (R103). -/
theorem of_hits_packWord (mm mp cp : Byte) (am ap : Addr) (m : Byte) (sp : BitVec 2) (rw : Bool) (a : Addr)
    (h : Row.hits ⟨mm ++ 0xFF#8 ++ am, mp ++ cp ++ ap⟩ (packWord m sp rw a) = true) :
    m &&& mm = mp ∧ 0#4 ++ sp ++ BitVec.ofBool rw ++ 0#1 = cp ∧ a &&& am = ap := by
  have e1 : (m ++ (0#4 ++ sp ++ BitVec.ofBool rw ++ 0#1) ++ a) &&& (mm ++ 0xFF#8 ++ am)
      = ((m ++ (0#4 ++ sp ++ BitVec.ofBool rw ++ 0#1)) &&& (mm ++ 0xFF#8)) ++ (a &&& am) := BitVec.and_append
  have e2 : (m ++ (0#4 ++ sp ++ BitVec.ofBool rw ++ 0#1)) &&& (mm ++ 0xFF#8)
      = (m &&& mm) ++ ((0#4 ++ sp ++ BitVec.ofBool rw ++ 0#1) &&& 0xFF#8) := BitVec.and_append
  have e3 : (0#4 ++ sp ++ BitVec.ofBool rw ++ 0#1 : BitVec 8) &&& 0xFF#8 = 0#4 ++ sp ++ BitVec.ofBool rw ++ 0#1 :=
    BitVec.and_allOnes
  rw [e3] at e2
  rw [e2] at e1
  simp only [Row.hits, packWord_eq_append, beq_iff_eq] at h
  rw [e1] at h
  have i1 : ∀ {n k : Nat} (x x' : BitVec n) (y y' : BitVec k), x ++ y = x' ++ y' → x = x' ∧ y = y' := by
    intro n k x x' y y' hh
    constructor
    · have := congrArg (BitVec.extractLsb' k n) hh
      simpa [BitVec.extractLsb'_append_eq_of_le] using this
    · have := congrArg (BitVec.extractLsb' 0 k) hh
      simpa [BitVec.extractLsb'_append_eq_of_add_le] using this
  obtain ⟨h12, h3⟩ := i1 _ _ _ _ h
  obtain ⟨h1, h2⟩ := i1 _ _ _ _ h12
  exact ⟨h1, h2, h3⟩

/-- Bits 23:16 give the space and the direction (R100). -/
theorem controlByte_inj (sp : BitVec 2) (rw : Bool) (sp' : BitVec 2) (rw' : Bool)
    (h : 0#4 ++ sp ++ BitVec.ofBool rw ++ 0#1 = 0#4 ++ sp' ++ BitVec.ofBool rw' ++ 0#1) : sp = sp' ∧ rw = rw' := by
  revert sp rw sp' rw'; decide

/-- A word that a row hits has its reserved bits 0 (R100). -/
theorem hits_reserved (w : Word) (r : Row) (hr : r ∈ allRows) (h : r.hits w = true) : wordReservedZero w = true := by
  have hm : ∀ r ∈ allRows, r.mask &&& 0x00F10000#32 = 0x00F10000#32 ∧ r.pattern &&& 0x00F10000#32 = 0#32 := by decide
  obtain ⟨h1, h2⟩ := hm r hr
  simp only [Row.hits, beq_iff_eq] at h
  have : w &&& 0x00F10000#32 = 0#32 := by rw [← h1, ← BitVec.and_assoc, h, h2]
  have b : ∀ k, (0x00F10000#32).getLsbD k = true → w.getLsbD k = false := by
    intro k hk
    have := congrArg (fun x => BitVec.getLsbD x k) this
    simpa [BitVec.getLsbD_and, hk] using this
  simp only [wordReservedZero, Bool.and_eq_true, beq_iff_eq, Bool.not_eq_true']
  refine ⟨?_, b 16 (by decide)⟩
  apply BitVec.eq_of_getLsbD_eq
  intro i hi
  simp only [BitVec.getLsbD_extractLsb']
  interval_cases i
  · simpa using b 20 (by decide)
  · simpa using b 21 (by decide)
  · simpa using b 22 (by decide)
  · simpa using b 23 (by decide)

/-- Every instruction's row is in the table. -/
theorem row_mem (i : Instr) : i.row ∈ allRows := by
  cases i <;> simp only [allRows, portRows, cartRows, busRows, controlRows, List.cons_append, List.nil_append, List.mem_cons, List.not_mem_nil, or_false, Instr.row, true_or, or_true]

end Sys2Proof
end

