-- ==== Sys2Proof/Laws/Memory.lean ====
section
/-! SUPPORT. Reading after writing a memory, and that every memory operation keeps the canonical form. -/

namespace Sys2Proof.Machine

@[simp] theorem memRead_nil (a : Nat) : memRead [] a = unlistedByte := rfl

/-- A byte below every listed address reads as unlisted. -/
theorem memRead_of_lt (m : Memory) (a : Nat) (h : ∀ c ∈ m, a < c.1) : memRead m a = unlistedByte := by
  induction m with
  | nil => rfl
  | cons c m ih =>
    have hc := h c (by simp)
    simp only [memRead]
    rw [if_neg (by omega)]
    exact ih (fun x hx => h x (by simp [hx]))

/-- What a write leaves: the byte written at its address, every other byte as it was. -/
theorem memRead_memWrite (m : Memory) (a : Nat) (d : Byte) (hm : Memory.wf m) (k : Nat) :
    memRead (memWrite m a d) k = if k = a then d else memRead m k := by
  induction m with
  | nil =>
    simp only [memWrite]
    split
    · rename_i h; simp [h]
    · simp only [memRead]
      by_cases hk : k = a
      · simp [hk]
      · simp [hk, Ne.symm hk]
  | cons c m ih =>
    obtain ⟨x, b⟩ := c
    obtain ⟨hp, hn⟩ := hm
    have hlt : ∀ c ∈ m, x < c.1 := fun c hc => (List.pairwise_cons.1 hp).1 c hc
    have hwf : Memory.wf m := ⟨(List.pairwise_cons.1 hp).2, fun c hc => hn c (by simp [hc])⟩
    simp only [memWrite]
    split
    · rename_i hax
      have hread : memRead ((x, b) :: m) a = unlistedByte := by
        apply memRead_of_lt
        intro c hc
        rcases List.mem_cons.1 hc with rfl | hc
        · exact hax
        · have := hlt c hc; omega
      split
      · rename_i hd
        by_cases hk : k = a
        · rw [if_pos hk, hk, hread, hd]
        · rw [if_neg hk]
      · by_cases hk : k = a
        · simp [memRead, hk]
        · rw [if_neg hk]; simp only [memRead]; rw [if_neg (Ne.symm hk)]
    · split
      · rename_i _ hax
        subst hax
        split
        · rename_i hd
          by_cases hk : k = a
          · rw [if_pos hk, hk, memRead_of_lt m a hlt, hd]
          · rw [if_neg hk]; simp only [memRead]; rw [if_neg (Ne.symm hk)]
        · by_cases hk : k = a
          · simp [memRead, hk]
          · rw [if_neg hk]; simp only [memRead]; rw [if_neg (Ne.symm hk), if_neg (Ne.symm hk)]
      · rename_i h1 h2
        simp only [memRead]
        by_cases hkx : x = k
        · have : ¬ k = a := by omega
          simp [hkx, this]
        · rw [if_neg hkx, if_neg hkx]; exact ih hwf

/-- A write leaves every other byte, canonical form or not. -/
theorem memRead_memWrite_other (m : Memory) (a : Nat) (d : Byte) (k : Nat) (h : k ≠ a) :
    memRead (memWrite m a d) k = memRead m k := by
  induction m with
  | nil =>
    simp only [memWrite]
    split
    · rfl
    · simp [memRead, Ne.symm h]
  | cons c m ih =>
    obtain ⟨x, b⟩ := c
    simp only [memWrite]
    split
    · split
      · rfl
      · simp only [memRead, if_neg (Ne.symm h)]
    · split
      · rename_i _ hx
        subst hx
        split
        · simp only [memRead, if_neg (Ne.symm h)]
        · simp only [memRead, if_neg (Ne.symm h)]
      · simp only [memRead, ih]

/-- Every entry of a written memory is an old one or the byte written. -/
theorem mem_memWrite (m : Memory) (a : Nat) (d : Byte) (c : Host.Cell) (h : c ∈ memWrite m a d) :
    c ∈ m ∨ (c = (a, d) ∧ d ≠ unlistedByte) := by
  induction m with
  | nil =>
    simp only [memWrite] at h
    split at h
    · simp at h
    · rename_i hd; simp at h; exact .inr ⟨h, hd⟩
  | cons e m ih =>
    obtain ⟨x, b⟩ := e
    simp only [memWrite] at h
    split at h
    · split at h
      · exact .inl h
      · rename_i hd
        rcases List.mem_cons.1 h with rfl | h
        · exact .inr ⟨rfl, hd⟩
        · exact .inl h
    · split at h
      · split at h
        · exact .inl (by simp [h])
        · rename_i hd
          rcases List.mem_cons.1 h with rfl | h
          · exact .inr ⟨rfl, hd⟩
          · exact .inl (by simp [h])
      · rcases List.mem_cons.1 h with rfl | h
        · exact .inl (by simp)
        · rcases ih h with h | h
          · exact .inl (by simp [h])
          · exact .inr h

/-- A write keeps the canonical form. -/
theorem memWrite_wf (m : Memory) (a : Nat) (d : Byte) (hm : Memory.wf m) : Memory.wf (memWrite m a d) := by
  refine ⟨?_, ?_⟩
  · induction m with
    | nil => simp only [memWrite]; split <;> simp
    | cons e m ih =>
      obtain ⟨x, b⟩ := e
      obtain ⟨hp, hn⟩ := hm
      have hp' := List.pairwise_cons.1 hp
      have hwf : Memory.wf m := ⟨hp'.2, fun c hc => hn c (by simp [hc])⟩
      simp only [memWrite]
      split
      · rename_i hax
        split
        · exact hp
        · refine List.pairwise_cons.2 ⟨?_, hp⟩
          intro c hc
          rcases List.mem_cons.1 hc with rfl | hc
          · exact hax
          · have := hp'.1 c hc; simp only at this ⊢; omega
      · split
        · rename_i _ hax
          split
          · exact hp'.2
          · exact List.pairwise_cons.2 ⟨fun c hc => by have := hp'.1 c hc; simp only at this ⊢; omega, hp'.2⟩
        · rename_i h1 h2
          refine List.pairwise_cons.2 ⟨?_, ih hwf⟩
          intro c hc
          rcases mem_memWrite m a d c hc with hc | ⟨rfl, _⟩
          · exact hp'.1 c hc
          · simp only; omega
  · intro c hc
    rcases mem_memWrite m a d c hc with hc | ⟨rfl, hd⟩
    · exact hm.2 c hc
    · exact hd

@[simp] theorem nil_wf : Memory.wf [] := ⟨List.Pairwise.nil, by simp⟩

/-- Every entry of a memory of consecutive bytes lies at or above the base. -/
theorem memOfBytes_base_le (bytes : List Byte) (base : Nat) : ∀ c ∈ memOfBytes base bytes, base ≤ c.1 := by
  induction bytes generalizing base with
  | nil => simp [memOfBytes]
  | cons b bs ih =>
    intro c hc
    simp only [memOfBytes] at hc
    split at hc
    · have := ih (base + 1) c hc; omega
    · rcases List.mem_cons.1 hc with rfl | hc
      · simp
      · have := ih (base + 1) c hc; omega

/-- A loaded image is in canonical form. -/
theorem memOfBytes_wf (bytes : List Byte) (base : Nat) : Memory.wf (memOfBytes base bytes) := by
  induction bytes generalizing base with
  | nil => exact nil_wf
  | cons b bs ih =>
    simp only [memOfBytes]
    split
    · exact ih (base + 1)
    · rename_i hb
      refine ⟨List.pairwise_cons.2 ⟨fun c hc => ?_, (ih (base + 1)).1⟩, fun c hc => ?_⟩
      · have := memOfBytes_base_le bs (base + 1) c hc
        simp only; omega
      · rcases List.mem_cons.1 hc with rfl | hc
        · exact hb
        · exact (ih (base + 1)).2 c hc

/-- CART_RAM_INIT gives a memory in canonical form. -/
theorem memOfCells_wf (size : Nat) (cells : List Host.Cell) : Memory.wf (memOfCells size cells) := by
  have key : ∀ (cs : List Host.Cell) (m : Memory), Memory.wf m →
      Memory.wf (cs.foldl (fun m c => if c.1 < size then memWrite m c.1 c.2 else m) m) := by
    intro cs
    induction cs with
    | nil => intro m h; exact h
    | cons c cs ih =>
      intro m h
      simp only [List.foldl_cons]
      apply ih
      split
      · exact memWrite_wf m c.1 c.2 h
      · exact h
  exact key cells [] nil_wf

/-- The byte of an image at an offset of it. -/
theorem memRead_memOfBytes (bytes : List Byte) (base i : Nat) :
    memRead (memOfBytes base bytes) (base + i) = bytes.getD i unlistedByte := by
  induction bytes generalizing base i with
  | nil => simp [memOfBytes]
  | cons b bs ih =>
    cases i with
    | zero =>
      simp only [memOfBytes]
      split
      · rename_i hb
        rw [memRead_of_lt]
        · simp [hb]
        · intro c hc
          have := memOfBytes_base_le bs (base + 1) c hc
          omega
      · simp [memRead]
    | succ i =>
      have e : base + (i + 1) = base + 1 + i := by omega
      simp only [memOfBytes]
      split
      · rw [e, ih]; simp
      · simp only [memRead]
        rw [if_neg (by omega), e, ih]
        simp

end Sys2Proof.Machine
end

