-- ==== Sys2Proof/Laws/Load.lean ====
section
/-! SUPPORT. What the load of a cartridge image leaves. -/

namespace Sys2Proof.Machine

/-- MAPPER_ID in numbers. -/
theorem mapperId_toNat (file : List Byte) :
    (parseHeader file).mapperId.toNat = (file.getD 7 0).toNat / 16 * 16 + (file.getD 6 0).toNat / 16 := by
  have h6 := (imageByte file 6).isLt
  have h7 := (imageByte file 7).isLt
  have key := Nat.shiftLeft_add_eq_or_of_lt (i := 4) (b := (imageByte file 6).toNat / 16) (by omega)
    ((imageByte file 7).toNat / 16)
  simp only [parseHeader, BitVec.toNat_append, BitVec.extractLsb'_toNat, Nat.shiftRight_eq_div_pow]
  rw [show (imageByte file 7).toNat / 2 ^ 4 % 2 ^ 4 = (imageByte file 7).toNat / 16 by omega,
    show (imageByte file 6).toNat / 2 ^ 4 % 2 ^ 4 = (imageByte file 6).toNat / 16 by omega, ← key, Nat.shiftLeft_eq]
  rfl

/-- A failed load leaves the cleared block. -/
theorem loadCartridge_failed (file : Option (List Byte)) (s : State) (f : Fault) (h : checkImage file = .error f) :
    loadCartridge file s = (clearBlock s, some f) := by
  simp only [loadCartridge, h]

/-- A load that succeeds leaves the cartridge of the image in a block that is otherwise cleared. -/
theorem loadCartridge_loaded (file : Option (List Byte)) (s : State) (h : Header) (hc : checkImage file = .ok h) :
    loadCartridge file s
      = ({ clearBlock s with cart := cartridgeOf (file.getD []) h s.params, loaded := true }, none) := by
  simp only [loadCartridge, hc]

/-- The cleared block holds no bank. -/
theorem clearBlock_cleared (s : State) : Cleared (clearBlock s) := ⟨rfl, rfl, rfl, rfl, rfl, rfl, rfl⟩

/-- A further pair at the end decides its own offset. -/
theorem initByte_append (cells : List Host.Cell) (c : Host.Cell) (j : Nat) :
    initByte (cells ++ [c]) j = if j = c.1 then c.2 else initByte cells j := by
  simp only [initByte, List.reverse_append, List.reverse_singleton, List.singleton_append, List.find?_cons]
  by_cases h : j = c.1
  · simp [h]
  · have : (c.1 == j) = false := by simp [Ne.symm h]
    simp [this, h]

/-- Every byte of RAM that CART_RAM_INIT fills. -/
theorem memRead_memOfCells (size : Nat) (cells : List Host.Cell) (j : Nat) (hj : j < size) :
    memRead (memOfCells size cells) j = initByte cells j := by
  induction cells using List.reverseRecOn with
  | nil => rfl
  | append_singleton cs c ih =>
    have hw := memOfCells_wf size cs
    rw [initByte_append, ← ih]
    simp only [memOfCells, List.foldl_append, List.foldl_cons, List.foldl_nil] at hw ⊢
    split
    · exact memRead_memWrite _ _ _ hw _
    · rw [if_neg (by omega)]

end Sys2Proof.Machine
end

