-- ==== Sys2Proof/Laws/State.lean ====
section
/-! SUPPORT. Each named update of State, field by field. -/

namespace Sys2Proof.Machine

/-! `setPpu` changes the PPU only. -/

@[simp] theorem setPpu_ppu (p : Ppu) (s : State) : (setPpu p s).ppu = p := rfl

@[simp] theorem setPpu_mirroring (p : Ppu) (s : State) : (setPpu p s).mirroring = s.mirroring := rfl

@[simp] theorem setPpu_mapper (p : Ppu) (s : State) : (setPpu p s).mapper = s.mapper := rfl

@[simp] theorem setPpu_prgTable (p : Ppu) (s : State) : (setPpu p s).prgTable = s.prgTable := rfl

@[simp] theorem setPpu_chrTable (p : Ppu) (s : State) : (setPpu p s).chrTable = s.chrTable := rfl

@[simp] theorem setPpu_cart (p : Ppu) (s : State) : (setPpu p s).cart = s.cart := rfl

@[simp] theorem setPpu_params (p : Ppu) (s : State) : (setPpu p s).params = s.params := rfl

@[simp] theorem setPpu_loaded (p : Ppu) (s : State) : (setPpu p s).loaded = s.loaded := rfl

@[simp] theorem setPpu_started (p : Ppu) (s : State) : (setPpu p s).started = s.started := rfl

@[simp] theorem setPpu_result (p : Ppu) (s : State) : (setPpu p s).result = s.result := rfl

@[simp] theorem setPpu_events (p : Ppu) (s : State) : (setPpu p s).events = s.events := rfl

@[simp] theorem setPpu_pending (p : Ppu) (s : State) : (setPpu p s).pending = s.pending := rfl

@[simp] theorem setPpu_draws (p : Ppu) (s : State) : (setPpu p s).draws = s.draws := rfl

/-! `setCart` changes the cartridge only. -/

@[simp] theorem setCart_ppu (c : Cartridge) (s : State) : (setCart c s).ppu = s.ppu := rfl

@[simp] theorem setCart_mirroring (c : Cartridge) (s : State) : (setCart c s).mirroring = s.mirroring := rfl

@[simp] theorem setCart_mapper (c : Cartridge) (s : State) : (setCart c s).mapper = s.mapper := rfl

@[simp] theorem setCart_prgTable (c : Cartridge) (s : State) : (setCart c s).prgTable = s.prgTable := rfl

@[simp] theorem setCart_chrTable (c : Cartridge) (s : State) : (setCart c s).chrTable = s.chrTable := rfl

@[simp] theorem setCart_cart (c : Cartridge) (s : State) : (setCart c s).cart = c := rfl

@[simp] theorem setCart_params (c : Cartridge) (s : State) : (setCart c s).params = s.params := rfl

@[simp] theorem setCart_loaded (c : Cartridge) (s : State) : (setCart c s).loaded = s.loaded := rfl

@[simp] theorem setCart_started (c : Cartridge) (s : State) : (setCart c s).started = s.started := rfl

@[simp] theorem setCart_result (c : Cartridge) (s : State) : (setCart c s).result = s.result := rfl

@[simp] theorem setCart_events (c : Cartridge) (s : State) : (setCart c s).events = s.events := rfl

@[simp] theorem setCart_pending (c : Cartridge) (s : State) : (setCart c s).pending = s.pending := rfl

@[simp] theorem setCart_draws (c : Cartridge) (s : State) : (setCart c s).draws = s.draws := rfl

/-! `setMapper` changes the mapper's registers only. -/

@[simp] theorem setMapper_ppu (m : Mapper) (s : State) : (setMapper m s).ppu = s.ppu := rfl

@[simp] theorem setMapper_mirroring (m : Mapper) (s : State) : (setMapper m s).mirroring = s.mirroring := rfl

@[simp] theorem setMapper_mapper (m : Mapper) (s : State) : (setMapper m s).mapper = m := rfl

@[simp] theorem setMapper_prgTable (m : Mapper) (s : State) : (setMapper m s).prgTable = s.prgTable := rfl

@[simp] theorem setMapper_chrTable (m : Mapper) (s : State) : (setMapper m s).chrTable = s.chrTable := rfl

@[simp] theorem setMapper_cart (m : Mapper) (s : State) : (setMapper m s).cart = s.cart := rfl

@[simp] theorem setMapper_params (m : Mapper) (s : State) : (setMapper m s).params = s.params := rfl

@[simp] theorem setMapper_loaded (m : Mapper) (s : State) : (setMapper m s).loaded = s.loaded := rfl

@[simp] theorem setMapper_started (m : Mapper) (s : State) : (setMapper m s).started = s.started := rfl

@[simp] theorem setMapper_result (m : Mapper) (s : State) : (setMapper m s).result = s.result := rfl

@[simp] theorem setMapper_events (m : Mapper) (s : State) : (setMapper m s).events = s.events := rfl

@[simp] theorem setMapper_pending (m : Mapper) (s : State) : (setMapper m s).pending = s.pending := rfl

@[simp] theorem setMapper_draws (m : Mapper) (s : State) : (setMapper m s).draws = s.draws := rfl

/-! `emit` changes the event trace only. -/

@[simp] theorem emit_ppu (e : Event) (s : State) : (emit e s).ppu = s.ppu := rfl

@[simp] theorem emit_mirroring (e : Event) (s : State) : (emit e s).mirroring = s.mirroring := rfl

@[simp] theorem emit_mapper (e : Event) (s : State) : (emit e s).mapper = s.mapper := rfl

@[simp] theorem emit_prgTable (e : Event) (s : State) : (emit e s).prgTable = s.prgTable := rfl

@[simp] theorem emit_chrTable (e : Event) (s : State) : (emit e s).chrTable = s.chrTable := rfl

@[simp] theorem emit_cart (e : Event) (s : State) : (emit e s).cart = s.cart := rfl

@[simp] theorem emit_params (e : Event) (s : State) : (emit e s).params = s.params := rfl

@[simp] theorem emit_loaded (e : Event) (s : State) : (emit e s).loaded = s.loaded := rfl

@[simp] theorem emit_started (e : Event) (s : State) : (emit e s).started = s.started := rfl

@[simp] theorem emit_result (e : Event) (s : State) : (emit e s).result = s.result := rfl

@[simp] theorem emit_events (e : Event) (s : State) : (emit e s).events = s.events ++ [e] := rfl

@[simp] theorem emit_pending (e : Event) (s : State) : (emit e s).pending = s.pending := rfl

@[simp] theorem emit_draws (e : Event) (s : State) : (emit e s).draws = s.draws := rfl

/-! `returnByte` changes the outcome only. -/

@[simp] theorem returnByte_ppu (b : Byte) (s : State) : (returnByte b s).ppu = s.ppu := rfl

@[simp] theorem returnByte_mirroring (b : Byte) (s : State) : (returnByte b s).mirroring = s.mirroring := rfl

@[simp] theorem returnByte_mapper (b : Byte) (s : State) : (returnByte b s).mapper = s.mapper := rfl

@[simp] theorem returnByte_prgTable (b : Byte) (s : State) : (returnByte b s).prgTable = s.prgTable := rfl

@[simp] theorem returnByte_chrTable (b : Byte) (s : State) : (returnByte b s).chrTable = s.chrTable := rfl

@[simp] theorem returnByte_cart (b : Byte) (s : State) : (returnByte b s).cart = s.cart := rfl

@[simp] theorem returnByte_params (b : Byte) (s : State) : (returnByte b s).params = s.params := rfl

@[simp] theorem returnByte_loaded (b : Byte) (s : State) : (returnByte b s).loaded = s.loaded := rfl

@[simp] theorem returnByte_started (b : Byte) (s : State) : (returnByte b s).started = s.started := rfl

@[simp] theorem returnByte_result (b : Byte) (s : State) : (returnByte b s).result = some b := rfl

@[simp] theorem returnByte_events (b : Byte) (s : State) : (returnByte b s).events = s.events := rfl

@[simp] theorem returnByte_pending (b : Byte) (s : State) : (returnByte b s).pending = s.pending := rfl

@[simp] theorem returnByte_draws (b : Byte) (s : State) : (returnByte b s).draws = s.draws := rfl

/-! `complete` changes the outcome only. -/

@[simp] theorem complete_ppu (s : State) : (complete s).ppu = s.ppu := rfl

@[simp] theorem complete_mirroring (s : State) : (complete s).mirroring = s.mirroring := rfl

@[simp] theorem complete_mapper (s : State) : (complete s).mapper = s.mapper := rfl

@[simp] theorem complete_prgTable (s : State) : (complete s).prgTable = s.prgTable := rfl

@[simp] theorem complete_chrTable (s : State) : (complete s).chrTable = s.chrTable := rfl

@[simp] theorem complete_cart (s : State) : (complete s).cart = s.cart := rfl

@[simp] theorem complete_params (s : State) : (complete s).params = s.params := rfl

@[simp] theorem complete_loaded (s : State) : (complete s).loaded = s.loaded := rfl

@[simp] theorem complete_started (s : State) : (complete s).started = s.started := rfl

@[simp] theorem complete_result (s : State) : (complete s).result = none := rfl

@[simp] theorem complete_events (s : State) : (complete s).events = s.events := rfl

@[simp] theorem complete_pending (s : State) : (complete s).pending = s.pending := rfl

@[simp] theorem complete_draws (s : State) : (complete s).draws = s.draws := rfl

/-! `tookDraw` changes the draw counter only. -/

@[simp] theorem tookDraw_ppu (s : State) : (tookDraw s).ppu = s.ppu := rfl

@[simp] theorem tookDraw_mirroring (s : State) : (tookDraw s).mirroring = s.mirroring := rfl

@[simp] theorem tookDraw_mapper (s : State) : (tookDraw s).mapper = s.mapper := rfl

@[simp] theorem tookDraw_prgTable (s : State) : (tookDraw s).prgTable = s.prgTable := rfl

@[simp] theorem tookDraw_chrTable (s : State) : (tookDraw s).chrTable = s.chrTable := rfl

@[simp] theorem tookDraw_cart (s : State) : (tookDraw s).cart = s.cart := rfl

@[simp] theorem tookDraw_params (s : State) : (tookDraw s).params = s.params := rfl

@[simp] theorem tookDraw_loaded (s : State) : (tookDraw s).loaded = s.loaded := rfl

@[simp] theorem tookDraw_started (s : State) : (tookDraw s).started = s.started := rfl

@[simp] theorem tookDraw_result (s : State) : (tookDraw s).result = s.result := rfl

@[simp] theorem tookDraw_events (s : State) : (tookDraw s).events = s.events := rfl

@[simp] theorem tookDraw_pending (s : State) : (tookDraw s).pending = s.pending := rfl

@[simp] theorem tookDraw_draws (s : State) : (tookDraw s).draws = s.draws + 1 := rfl

/-! `recompute` changes the tables and the mirroring only. -/

@[simp] theorem recompute_ppu (s : State) : (recompute s).ppu = s.ppu := rfl

@[simp] theorem recompute_mirroring (s : State) : (recompute s).mirroring = if pushesMirroring s.mapper then mirroringOf s.mapper s.cart.hdrVertical else s.mirroring := rfl

@[simp] theorem recompute_mapper (s : State) : (recompute s).mapper = s.mapper := rfl

@[simp] theorem recompute_prgTable (s : State) : (recompute s).prgTable = prgTableOf s.mapper s.cart.prgBanks := rfl

@[simp] theorem recompute_chrTable (s : State) : (recompute s).chrTable = chrTableOf s.mapper (chrBanks s.cart) := rfl

@[simp] theorem recompute_cart (s : State) : (recompute s).cart = s.cart := rfl

@[simp] theorem recompute_params (s : State) : (recompute s).params = s.params := rfl

@[simp] theorem recompute_loaded (s : State) : (recompute s).loaded = s.loaded := rfl

@[simp] theorem recompute_started (s : State) : (recompute s).started = s.started := rfl

@[simp] theorem recompute_result (s : State) : (recompute s).result = s.result := rfl

@[simp] theorem recompute_events (s : State) : (recompute s).events = s.events := rfl

@[simp] theorem recompute_pending (s : State) : (recompute s).pending = s.pending := rfl

@[simp] theorem recompute_draws (s : State) : (recompute s).draws = s.draws := rfl

/-! `updateMapper` changes the mapper, the tables and the mirroring only. -/

@[simp] theorem updateMapper_ppu (m : Mapper) (s : State) : (updateMapper m s).ppu = s.ppu := rfl

@[simp] theorem updateMapper_mirroring (m : Mapper) (s : State) : (updateMapper m s).mirroring = if pushesMirroring m then mirroringOf m s.cart.hdrVertical else s.mirroring := rfl

@[simp] theorem updateMapper_mapper (m : Mapper) (s : State) : (updateMapper m s).mapper = m := rfl

@[simp] theorem updateMapper_prgTable (m : Mapper) (s : State) : (updateMapper m s).prgTable = prgTableOf m s.cart.prgBanks := rfl

@[simp] theorem updateMapper_chrTable (m : Mapper) (s : State) : (updateMapper m s).chrTable = chrTableOf m (chrBanks s.cart) := rfl

@[simp] theorem updateMapper_cart (m : Mapper) (s : State) : (updateMapper m s).cart = s.cart := rfl

@[simp] theorem updateMapper_params (m : Mapper) (s : State) : (updateMapper m s).params = s.params := rfl

@[simp] theorem updateMapper_loaded (m : Mapper) (s : State) : (updateMapper m s).loaded = s.loaded := rfl

@[simp] theorem updateMapper_started (m : Mapper) (s : State) : (updateMapper m s).started = s.started := rfl

@[simp] theorem updateMapper_result (m : Mapper) (s : State) : (updateMapper m s).result = s.result := rfl

@[simp] theorem updateMapper_events (m : Mapper) (s : State) : (updateMapper m s).events = s.events := rfl

@[simp] theorem updateMapper_pending (m : Mapper) (s : State) : (updateMapper m s).pending = s.pending := rfl

@[simp] theorem updateMapper_draws (m : Mapper) (s : State) : (updateMapper m s).draws = s.draws := rfl

/-! The byte of a space after each update. -/

@[simp] theorem byteAt_setMapper (m : Mapper) (s : State) (k : Space) (a : Nat) :
    byteAt (setMapper m s) k a = byteAt s k a := by cases k <;> rfl

@[simp] theorem byteAt_emit (e : Event) (s : State) (k : Space) (a : Nat) :
    byteAt (emit e s) k a = byteAt s k a := by cases k <;> rfl

@[simp] theorem byteAt_returnByte (b : Byte) (s : State) (k : Space) (a : Nat) :
    byteAt (returnByte b s) k a = byteAt s k a := by cases k <;> rfl

@[simp] theorem byteAt_complete (s : State) (k : Space) (a : Nat) : byteAt (complete s) k a = byteAt s k a := by
  cases k <;> rfl

@[simp] theorem byteAt_tookDraw (s : State) (k : Space) (a : Nat) : byteAt (tookDraw s) k a = byteAt s k a := by
  cases k <;> rfl

@[simp] theorem byteAt_recompute (s : State) (k : Space) (a : Nat) : byteAt (recompute s) k a = byteAt s k a := by
  cases k <;> rfl

@[simp] theorem byteAt_updateMapper (m : Mapper) (s : State) (k : Space) (a : Nat) :
    byteAt (updateMapper m s) k a = byteAt s k a := by cases k <;> rfl

/-- A new PPU with the same three memories leaves every byte. -/
theorem byteAt_setPpu (p : Ppu) (s : State) (k : Space) (a : Nat) (ho : p.oam = s.ppu.oam)
    (hn : p.ntMem = s.ppu.ntMem) (hp : p.palMem = s.ppu.palMem) : byteAt (setPpu p s) k a = byteAt s k a := by
  cases k <;> simp [byteAt, State.memory, ho, hn, hp]

end Sys2Proof.Machine
end

