-- ==== Sys2Proof/Laws/Mappers.lean ====
section
/-! SUPPORT. What the shared operations of the mapper rows do: a row in its own session and in another's, the
recompute, the MMC1 serial register, the MMC3 bank-data registers and the IRQ counter. -/

namespace Sys2Proof.Machine

theorem forVariant_own (id : Byte) (s : State) (o : Host.Outcome State Fault Refusal) (h : s.mapper.id = id) :
    forVariant id s o = o := if_pos h

theorem forVariant_other (id : Byte) (s : State) (o : Host.Outcome State Fault Refusal) (h : s.mapper.id ≠ id) :
    forVariant id s o = .refused (.otherMapper id) := if_neg h

theorem onMmc1_own (s : State) (r : Mmc1) (k : Mmc1 → State) (h : s.mapper = .mmc1 r) :
    onMmc1 s k = .next (complete (k r)) := by
  simp only [onMmc1]; split <;> simp_all

theorem onMmc1_other (s : State) (k : Mmc1 → State) (h : s.mapper.id ≠ 1#8) :
    onMmc1 s k = .refused (.otherMapper 1#8) := by
  simp only [onMmc1]
  split
  · rename_i r hr; rw [hr] at h; exact absurd rfl h
  all_goals rfl

theorem onMmc3_own (s : State) (r : Mmc3) (k : Mmc3 → State) (h : s.mapper = .mmc3 r) :
    onMmc3 s k = .next (complete (k r)) := by
  simp only [onMmc3]; split <;> simp_all

theorem onMmc3_other (s : State) (k : Mmc3 → State) (h : s.mapper.id ≠ 4#8) :
    onMmc3 s k = .refused (.otherMapper 4#8) := by
  simp only [onMmc3]
  split
  · rename_i r hr; rw [hr] at h; exact absurd rfl h
  all_goals rfl

/-- A next state of a row of `forVariant` is that of the row's own session. -/
theorem forVariant_next (id : Byte) (s t u : State) (h : forVariant id s (.next u) = .next t) :
    s.mapper.id = id ∧ t = u := by
  simp only [forVariant] at h
  split at h
  · rename_i hid; cases h; exact ⟨hid, rfl⟩
  · cases h

/-- A next state of an MMC1 row is that of an MMC1 session. -/
theorem onMmc1_next (s t : State) (k : Mmc1 → State) (h : onMmc1 s k = .next t) :
    ∃ r, s.mapper = .mmc1 r ∧ t = complete (k r) := by
  simp only [onMmc1] at h
  split at h
  · rename_i r hr; cases h; exact ⟨r, hr, rfl⟩
  all_goals cases h

/-- A next state of an MMC3 row is that of an MMC3 session. -/
theorem onMmc3_next (s t : State) (k : Mmc3 → State) (h : onMmc3 s k = .next t) :
    ∃ r, s.mapper = .mmc3 r ∧ t = complete (k r) := by
  simp only [onMmc3] at h
  split at h
  · rename_i r hr; cases h; exact ⟨r, hr, rfl⟩
  all_goals cases h

/-- No row of `forVariant` over a next state faults. -/
theorem forVariant_no_fault (id : Byte) (s u : State) (f : Fault) : forVariant id s (.next u) ≠ .fault f := by
  simp only [forVariant]; split <;> simp

theorem onMmc1_no_fault (s : State) (k : Mmc1 → State) (f : Fault) : onMmc1 s k ≠ .fault f := by
  simp only [onMmc1]; split <;> simp

theorem onMmc3_no_fault (s : State) (k : Mmc3 → State) (f : Fault) : onMmc3 s k ≠ .fault f := by
  simp only [onMmc3]; split <;> simp

/-- An MMC1 write that recomputes (R245, R297). -/
theorem complete_updateMapper_mmc1 (r : Mmc1) (s : State) :
    complete (updateMapper (.mmc1 r) s) = recomputed (.mmc1 r) s := rfl

/-- An MMC3 port write (R245, R320). -/
theorem complete_updateMapper_mmc3 (r : Mmc3) (s : State) :
    complete (updateMapper (.mmc3 r) s) = recomputed (.mmc3 r) s := rfl

/-- The new bit enters at bit 4 (R291). -/
theorem mmc1Shifted_eq (r : Mmc1) (d : Byte) :
    mmc1Shifted r d = (r.shiftValue >>> 1) ||| (if d.getLsbD 0 then 16#5 else 0#5) := by
  simp only [mmc1Shifted]
  cases d.getLsbD 0 <;> simp

/-- All an MMC1 write can do: a reset bit, a bit shifted in, or the commit of the fifth (R291, R292). -/
theorem mmc1Write_cases (a : Addr) (d : Byte) (s : State) (r : Mmc1) :
    (d.getLsbD 7 = true ∧ mmc1Write a d s r = updateMapper (.mmc1 (mmc1ResetBit r)) s)
    ∨ (d.getLsbD 7 = false ∧ r.shiftCount < 4 ∧ mmc1Write a d s r =
        setMapper (.mmc1 { r with shiftValue := mmc1Shifted r d, shiftCount := r.shiftCount + 1 }) s)
    ∨ (d.getLsbD 7 = false ∧ 4 ≤ r.shiftCount
        ∧ mmc1Write a d s r = updateMapper (.mmc1 (mmc1Commit r a (mmc1Shifted r d))) s) := by
  cases h7 : d.getLsbD 7
  · by_cases hc : r.shiftCount < 4
    · exact .inr (.inl ⟨rfl, hc, by
        simp only [mmc1Write, h7, Bool.false_eq_true, if_false, if_pos hc]⟩)
    · exact .inr (.inr ⟨rfl, by omega, by
        simp only [mmc1Write, h7, Bool.false_eq_true, if_false, if_neg hc]⟩)
  · exact .inl ⟨rfl, by simp only [mmc1Write, h7, if_true]⟩

/-- A reset bit and a commit clear the shift state. -/
@[simp] theorem mmc1ResetBit_shiftCount (r : Mmc1) : (mmc1ResetBit r).shiftCount = 0 := rfl

@[simp] theorem mmc1Commit_shiftCount (r : Mmc1) (a : Addr) (v : BitVec 5) : (mmc1Commit r a v).shiftCount = 0 := by
  simp only [mmc1Commit]; split <;> rfl

/-- The register of an address of an MMC1 range is that of the range's base (R105, R291). -/
theorem mmc1_select (a base : Addr) (h : a &&& 0xE000#16 = base) :
    ((a >>> 13) &&& 3#16).toNat = ((base >>> 13) &&& 3#16).toNat := by
  rw [← h]
  congr 1
  apply BitVec.eq_of_getLsbD_eq
  intro i hi
  simp only [BitVec.getLsbD_and, BitVec.getLsbD_ushiftRight]
  interval_cases i <;> simp

/-- What a bank-data write leaves: the byte in its register, the others as they were (R312). -/
theorem bankDataGet_bankDataSet (b : BankData) (q k : BitVec 3) (d : Byte) :
    bankDataGet (bankDataSet b q d) k = if k.toNat = q.toNat then d else bankDataGet b k := by
  have hq := q.isLt
  have hk := k.isLt
  simp only [bankDataGet, bankDataSet]
  generalize q.toNat = q at *
  generalize k.toNat = k at *
  interval_cases q <;> interval_cases k <;> rfl

/-- The whole of an MMC3 hook (R321). -/
theorem mmc3Hook_eq (s : State) (r : Mmc3) :
    mmc3Hook s r = { setMapper (.mmc3 (clockIrq r)) s with
      events := if irqFires (clockIrq r) then s.events ++ [.irq] else s.events } := by
  simp only [mmc3Hook]
  split <;> rfl

/-! ### Table fields and runs of rows -/

/-- A CHR unit number with bit 0 cleared (R322). -/
theorem and_FE_toNat (x : Byte) : (x &&& 0xFE#8).toNat = x.toNat / 2 * 2 := by
  have : x &&& 0xFE#8 = (x >>> 1) <<< 1 := by
    apply BitVec.eq_of_getLsbD_eq; intro i hi
    simp only [BitVec.getLsbD_and, BitVec.getLsbD_shiftLeft, BitVec.getLsbD_ushiftRight]
    interval_cases i <;> simp
  rw [this]; simp only [BitVec.toNat_shiftLeft, BitVec.toNat_ushiftRight, Nat.shiftLeft_eq, Nat.shiftRight_eq_div_pow]; omega

/-- A CHR unit number with bit 0 set (R322). -/
theorem or_one_toNat (x : Byte) : (x ||| 1#8).toNat = x.toNat / 2 * 2 + 1 := by
  have : ∀ x : Byte, (x ||| 1#8).toNat = x.toNat / 2 * 2 + 1 := by decide
  exact this x

/-- An MMC1 write that only shifts (R291). -/
theorem mmc1_shift_step (s : State) (r : Mmc1) (a : Addr) (d : Byte) (hm : s.mapper = .mmc1 r) (h7 : d.getLsbD 7 = false) (hc : r.shiftCount < 4) :
    onMmc1 s (mmc1Write a d s) = .next (complete (setMapper (.mmc1 { r with shiftValue := mmc1Shifted r d, shiftCount := r.shiftCount + 1 }) s)) := by
  rw [onMmc1_own s r _ hm]
  simp only [mmc1Write, h7, if_pos hc, Bool.false_eq_true, if_false]

/-- An MMC1 write that commits (R291). -/
theorem mmc1_commit_step (s : State) (r : Mmc1) (a : Addr) (d : Byte) (hm : s.mapper = .mmc1 r) (h7 : d.getLsbD 7 = false) (hc : ¬ r.shiftCount < 4) :
    onMmc1 s (mmc1Write a d s) = .next (complete (updateMapper (.mmc1 (mmc1Commit r a (mmc1Shifted r d))) s)) := by
  rw [onMmc1_own s r _ hm]
  simp only [mmc1Write, h7, if_neg hc, Bool.false_eq_true, if_false]

/-- Five bits shifted in, the least significant first, are the value (R114, R291). -/
theorem mmc1Shifted_five (r : Mmc1) (v : BitVec 5) (d0 d1 d2 d3 d4 : Byte) (n1 n2 n3 n4 : Nat)
   (h0 : d0.getLsbD 0 = v.getLsbD 0) (h1 : d1.getLsbD 0 = v.getLsbD 1) (h2 : d2.getLsbD 0 = v.getLsbD 2) (h3 : d3.getLsbD 0 = v.getLsbD 3) (h4 : d4.getLsbD 0 = v.getLsbD 4) :
   let r1 := { r with shiftValue := mmc1Shifted r d0, shiftCount := n1 }
   let r2 := { r1 with shiftValue := mmc1Shifted r1 d1, shiftCount := n2 }
   let r3 := { r2 with shiftValue := mmc1Shifted r2 d2, shiftCount := n3 }
   let r4 := { r3 with shiftValue := mmc1Shifted r3 d3, shiftCount := n4 }
   mmc1Shifted r4 d4 = v := by
  intro r1 r2 r3 r4
  simp only [mmc1Shifted, r1, r2, r3, r4, h0, h1, h2, h3, h4]
  apply BitVec.eq_of_getLsbD_eq
  intro i hi
  simp only [BitVec.getLsbD_or, BitVec.getLsbD_ushiftRight, BitVec.getLsbD_shiftLeft, BitVec.getLsbD_setWidth]
  interval_cases i <;> simp

/-- MMC3_HOOK in an MMC3 session (R321). -/
theorem exec_mmc3Hook (s : State) (r : Mmc3) (hm : s.mapper = .mmc3 r) :
   exec .mmc3Hook s = .next (complete { setMapper (.mmc3 (clockIrq r)) s with
      events := if irqFires (clockIrq r) then s.events ++ [.irq] else s.events }) := by
  simp only [exec, execMmc3Hook, onMmc3_own s r _ hm, mmc3Hook_eq]

end Sys2Proof.Machine
end

