-- ==== Sys2Proof/Laws/Operands.lean ====
section
/-! SUPPORT. The fields of the scroll registers, the bank-index tables and the accesses translated through
them, and the PPU bus. -/

namespace Sys2Proof.Machine

/-! ### Scroll fields -/

@[simp] theorem coarseX_scrollOf (fy : BitVec 3) (nt : BitVec 2) (cy cx : BitVec 5) :
    coarseX (scrollOf fy nt cy cx) = cx := by
  simp only [coarseX, scrollOf]
  rw [BitVec.extractLsb'_append_eq_of_add_le (by decide)]
  simp

@[simp] theorem coarseY_scrollOf (fy : BitVec 3) (nt : BitVec 2) (cy cx : BitVec 5) :
    coarseY (scrollOf fy nt cy cx) = cy := by
  simp only [coarseY, scrollOf]
  rw [BitVec.extractLsb'_append_eq_of_le (by decide), BitVec.extractLsb'_append_eq_of_add_le (by decide)]
  simp

@[simp] theorem nametable_scrollOf (fy : BitVec 3) (nt : BitVec 2) (cy cx : BitVec 5) :
    nametable (scrollOf fy nt cy cx) = nt := by
  simp only [nametable, scrollOf]
  rw [BitVec.extractLsb'_append_eq_of_le (by decide), BitVec.extractLsb'_append_eq_of_le (by decide),
    BitVec.extractLsb'_append_eq_of_add_le (by decide)]
  simp

@[simp] theorem fineY_scrollOf (fy : BitVec 3) (nt : BitVec 2) (cy cx : BitVec 5) :
    fineY (scrollOf fy nt cy cx) = fy := by
  simp only [fineY, scrollOf]
  rw [BitVec.extractLsb'_append_eq_of_le (by decide), BitVec.extractLsb'_append_eq_of_le (by decide),
    BitVec.extractLsb'_append_eq_of_le (by decide)]
  simp

/-- A scroll register is made of its four fields. -/
theorem scrollOf_fields (r : Scroll) : scrollOf (fineY r) (nametable r) (coarseY r) (coarseX r) = r := by
  apply BitVec.eq_of_getLsbD_eq
  intro i hi
  simp only [scrollOf, fineY, nametable, coarseY, coarseX, BitVec.getLsbD_append, BitVec.getLsbD_extractLsb']
  rcases (by omega : i < 5 ∨ (5 ≤ i ∧ i < 10) ∨ (10 ≤ i ∧ i < 12) ∨ (12 ≤ i ∧ i < 15)) with h | h | h | h
  · simp [h]
  · have h1 : ¬ i < 5 := by omega
    have h2 : i - 5 < 5 := by omega
    have e : 5 + (i - 5) = i := by omega
    simp [h1, h2, e]
  · have h1 : ¬ i < 5 := by omega
    have h2 : ¬ i - 5 < 5 := by omega
    have h3 : i - 5 - 5 < 2 := by omega
    have e : 10 + (i - 5 - 5) = i := by omega
    simp only [h1, h2, h3, e, if_false, if_true]
    simp
  · have h1 : ¬ i < 5 := by omega
    have h2 : ¬ i - 5 < 5 := by omega
    have h3 : ¬ i - 5 - 5 < 2 := by omega
    have h4 : i - 5 - 5 - 2 < 3 := by omega
    have e : 12 + (i - 5 - 5 - 2) = i := by omega
    simp only [h1, h2, h3, h4, e, if_false]
    simp

/-! ### Field writes as masks (R130, R135, R136) -/

theorem withNametable_eq (t : Scroll) (d : Byte) :
    withNametable t (ctlNametable d) = (t &&& 0x73FF#15) ||| ((d &&& 3#8).setWidth 15 <<< 10) := by
  apply BitVec.eq_of_getLsbD_eq
  intro i hi
  simp only [withNametable, ctlNametable, scrollOf, fineY, coarseX, coarseY, BitVec.getLsbD_append, BitVec.getLsbD_extractLsb', BitVec.getLsbD_or, BitVec.getLsbD_and,
    BitVec.getLsbD_shiftLeft, BitVec.getLsbD_setWidth]
  interval_cases i <;> simp

theorem withCoarseX_eq (t : Scroll) (d : Byte) :
    withCoarseX t (d.extractLsb' 3 5) = (t &&& 0x7FE0#15) ||| (d >>> 3).setWidth 15 := by
  apply BitVec.eq_of_getLsbD_eq
  intro i hi
  simp only [withCoarseX, scrollOf, fineY, nametable, coarseY, BitVec.getLsbD_append, BitVec.getLsbD_extractLsb', BitVec.getLsbD_or, BitVec.getLsbD_and, BitVec.getLsbD_setWidth, BitVec.getLsbD_ushiftRight]
  interval_cases i <;> simp

theorem withFineCoarseY_eq (t : Scroll) (d : Byte) :
    withCoarseY (withFineY t (d.extractLsb' 0 3)) (d.extractLsb' 3 5) =
      (t &&& 0x0C1F#15) ||| ((d &&& 7#8).setWidth 15 <<< 12) ||| ((d >>> 3).setWidth 15 <<< 5) := by
  apply BitVec.eq_of_getLsbD_eq
  intro i hi
  simp only [withCoarseY, withFineY, fineY_scrollOf, nametable_scrollOf, coarseX_scrollOf]
  simp only [scrollOf, nametable, coarseX, BitVec.getLsbD_append, BitVec.getLsbD_extractLsb', BitVec.getLsbD_or, BitVec.getLsbD_and,
    BitVec.getLsbD_shiftLeft, BitVec.getLsbD_setWidth, BitVec.getLsbD_ushiftRight]
  interval_cases i <;> simp

theorem withAddrHigh_eq (t : Scroll) (d : Byte) :
    withAddrHigh t d = (t &&& 0x00FF#15) ||| ((d &&& 0x3F#8).setWidth 15 <<< 8) := by
  apply BitVec.eq_of_getLsbD_eq
  intro i hi
  simp only [withAddrHigh, BitVec.getLsbD_append, BitVec.getLsbD_extractLsb', BitVec.getLsbD_or, BitVec.getLsbD_and,
    BitVec.getLsbD_shiftLeft, BitVec.getLsbD_setWidth]
  interval_cases i <;> simp

theorem withAddrLow_eq (t : Scroll) (d : Byte) : withAddrLow t d = (t &&& 0x7F00#15) ||| d.setWidth 15 := by
  apply BitVec.eq_of_getLsbD_eq
  intro i hi
  simp only [withAddrLow, BitVec.getLsbD_append, BitVec.getLsbD_extractLsb', BitVec.getLsbD_or, BitVec.getLsbD_and, BitVec.getLsbD_setWidth]
  interval_cases i <;> simp

/-! ### Tables -/

/-- A window lies whole inside a bank the cartridge has. -/
def windowOk (count size wsize : Nat) (w : Window) : Prop := w.bank < count ∧ w.offset + wsize ≤ size

theorem unitWindow_ok (k usize count u : Nat) (hk : 0 < k) (hu : u < k * count) :
    windowOk count (k * usize) usize (unitWindow k usize u) := by
  constructor
  · simp only [unitWindow]
    exact Nat.div_lt_of_lt_mul hu
  · simp only [unitWindow]
    have h := Nat.mod_lt u hk
    calc u % k * usize + usize = (u % k + 1) * usize := by ring
      _ ≤ k * usize := Nat.mul_le_mul_right usize h

theorem prgUnit16_ok (p u : Nat) (hp : 1 ≤ p) : windowOk p 0x4000 0x4000 (prgUnit16 p u) :=
  unitWindow_ok 1 0x4000 p (u % p) (by omega) (by have := Nat.mod_lt u (by omega : 0 < p); omega)

theorem prgUnit8_ok (p u : Nat) (hp : 1 ≤ p) : windowOk p 0x4000 0x2000 (prgUnit8 p u) :=
  unitWindow_ok 2 0x2000 p (u % (2 * p)) (by omega) (Nat.mod_lt u (by omega))

theorem chrUnit8_ok (c u : Nat) (hc : 1 ≤ c) : windowOk c 0x2000 0x2000 (chrUnit8 c u) :=
  unitWindow_ok 1 0x2000 c (u % c) (by omega) (by have := Nat.mod_lt u (by omega : 0 < c); omega)

theorem chrUnit4_ok (c u : Nat) (hc : 1 ≤ c) : windowOk c 0x2000 0x1000 (chrUnit4 c u) :=
  unitWindow_ok 2 0x1000 c (u % (2 * c)) (by omega) (Nat.mod_lt u (by omega))

theorem chrUnit1_ok (c u : Nat) (hc : 1 ≤ c) : windowOk c 0x2000 0x400 (chrUnit1 c u) :=
  unitWindow_ok 8 0x400 c (u % (8 * c)) (by omega) (Nat.mod_lt u (by omega))

@[simp] theorem prgTableOf_length (m : Mapper) (p : Nat) : (prgTableOf m p).length = prgWindows m := by
  cases m with
  | nrom => rfl
  | uxrom sel => rfl
  | cnrom sel => rfl
  | mmc1 r => simp only [prgTableOf, mmc1PrgTable, prgWindows]; split <;> rfl
  | mmc3 r => simp only [prgTableOf, mmc3PrgTable, prgWindows]; split <;> rfl

@[simp] theorem chrTableOf_length (m : Mapper) (c : Nat) : (chrTableOf m c).length = chrWindows m := by
  cases m with
  | nrom => rfl
  | uxrom sel => rfl
  | cnrom sel => rfl
  | mmc1 r => simp only [chrTableOf, mmc1ChrTable, chrWindows]; split <;> rfl
  | mmc3 r => simp only [chrTableOf, mmc3ChrTable, chrWindows]; split <;> rfl

/-- Every PRG window names a bank below P and lies inside it (R32, R245). -/
theorem prgTableOf_ok (m : Mapper) (p : Nat) (hp : 1 ≤ p) :
    ∀ w ∈ prgTableOf m p, windowOk p 0x4000 (0x8000 / prgWindows m) w := by
  have h16 := fun u => prgUnit16_ok p u hp
  have h8 := fun u => prgUnit8_ok p u hp
  have e2 : 0x8000 / 2 = 0x4000 := by norm_num
  have e4 : 0x8000 / 4 = 0x2000 := by norm_num
  intro w hw
  cases m with
  | nrom =>
    simp only [prgTableOf, fixedPrgTable, List.mem_cons, List.not_mem_nil, or_false] at hw
    rw [show prgWindows .nrom = 2 from rfl, e2]
    rcases hw with rfl | rfl <;> exact h16 _
  | uxrom sel =>
    simp only [prgTableOf, uxromPrgTable, List.mem_cons, List.not_mem_nil, or_false] at hw
    rw [show prgWindows (.uxrom sel) = 2 from rfl, e2]
    rcases hw with rfl | rfl <;> exact h16 _
  | cnrom sel =>
    simp only [prgTableOf, fixedPrgTable, List.mem_cons, List.not_mem_nil, or_false] at hw
    rw [show prgWindows (.cnrom sel) = 2 from rfl, e2]
    rcases hw with rfl | rfl <;> exact h16 _
  | mmc1 r =>
    rw [show prgWindows (.mmc1 r) = 2 from rfl, e2]
    simp only [prgTableOf, mmc1PrgTable] at hw
    split at hw <;> simp only [List.mem_cons, List.not_mem_nil, or_false] at hw <;>
      rcases hw with rfl | rfl <;> exact h16 _
  | mmc3 r =>
    rw [show prgWindows (.mmc3 r) = 4 from rfl, e4]
    simp only [prgTableOf, mmc3PrgTable] at hw
    split at hw <;> simp only [List.mem_cons, List.not_mem_nil, or_false] at hw <;>
      rcases hw with rfl | rfl | rfl | rfl <;> exact h8 _

/-- The PRG windows cover 0x8000 bytes (R32). -/
theorem prgWindows_cover (m : Mapper) : 0 < 0x8000 / prgWindows m ∧ prgWindows m * (0x8000 / prgWindows m) = 0x8000 := by
  have h : prgWindows m = 2 ∨ prgWindows m = 4 := by cases m <;> simp [prgWindows]
  rcases h with h | h <;> rw [h] <;> norm_num

/-- Every CHR window names a bank below C and lies inside it (R32, R245). -/
theorem chrTableOf_ok (m : Mapper) (c : Nat) (hc : 1 ≤ c) :
    ∀ w ∈ chrTableOf m c, windowOk c 0x2000 (0x2000 / chrWindows m) w := by
  have h8 := fun u => chrUnit8_ok c u hc
  have h4 := fun u => chrUnit4_ok c u hc
  have h1 := fun u => chrUnit1_ok c u hc
  cases m with
  | nrom => simp [chrTableOf, chrWindows, h8]
  | uxrom sel => simp [chrTableOf, chrWindows, h8]
  | cnrom sel => simp [chrTableOf, chrWindows, h8]
  | mmc1 r => simp only [chrTableOf, mmc1ChrTable, chrWindows]; split <;> simp [h4]
  | mmc3 r =>
    simp only [chrTableOf, mmc3ChrTable, chrWindows, mmc3ChrPairs, mmc3ChrSingles]
    split <;> simp [h1]

theorem chrBanks_pos (c : Cartridge) : 1 ≤ chrBanks c := by
  simp only [chrBanks]; split <;> omega

/-- Translation through a table of windows that lie whole in their banks. -/
theorem translate_ok (table : List Window) (count size wsize off a : Nat) (hw : 0 < wsize)
    (hoff : off < table.length * wsize) (hall : ∀ w ∈ table, windowOk count size wsize w) :
    ∃ b j, translate table wsize off a = .ok (b, j) ∧ b < count ∧ j < size := by
  have hi : off / wsize < table.length := Nat.div_lt_of_lt_mul (by rw [Nat.mul_comm]; exact hoff)
  have hok := hall table[off / wsize] (List.getElem_mem hi)
  refine ⟨table[off / wsize].bank, table[off / wsize].offset + off % wsize, ?_, hok.1, ?_⟩
  · simp [translate, List.getElem?_eq_getElem hi]
  · have := Nat.mod_lt off hw
    have := hok.2
    omega

/-- `rom_program` of a PRG address answers a bank the cartridge has (R241). -/
theorem romProgram_ok (s : State) (a : Addr) (hs : StorageOk s) (ha : 0x8000 ≤ a.toNat) :
    ∃ b j, romProgram s a = .ok (b, j) ∧ b < s.cart.prgBanks ∧ j < 0x4000 := by
  have hlt := a.isLt
  have hc := prgWindows_cover s.mapper
  rw [romProgram, if_neg (by omega)]
  apply translate_ok
  · exact hc.1
  · rw [hs.2.1, prgTableOf_length, hc.2]
    omega
  · rw [hs.2.1]
    exact prgTableOf_ok _ _ hs.1.1

/-- `rom_character` of a CHR address answers a bank the cartridge has (R242). -/
theorem romCharacter_ok (s : State) (a : Nat) (hs : StorageOk s) (ha : a ≤ 0x1FFF) :
    ∃ b j, romCharacter s a = .ok (b, j) ∧ b < chrBanks s.cart ∧ j < 0x2000 := by
  apply translate_ok
  · cases s.mapper <;> simp [chrWindows]
  · rw [hs.2.2, chrTableOf_length]
    cases s.mapper <;> simp only [chrWindows] <;> omega
  · rw [hs.2.2]
    exact chrTableOf_ok _ _ (chrBanks_pos _)

/-- A PRG read never faults in a session (R241). -/
theorem prgRead_ok (s : State) (a : Addr) (hs : StorageOk s) (ha : 0x8000 ≤ a.toNat) :
    ∃ b j, romProgram s a = .ok (b, j) ∧ b < s.cart.prgBanks ∧ j < 0x4000
      ∧ prgRead s a = .ok (byteAt s .prg (b * 0x4000 + j)) := by
  obtain ⟨b, j, h, hb, hj⟩ := romProgram_ok s a hs ha
  exact ⟨b, j, h, hb, hj, by simp [prgRead, h, storageRead, hb, byteAt, State.memory]⟩

/-- A CHR read never faults in a session (R242). -/
theorem chrRead_ok (s : State) (a : Nat) (hs : StorageOk s) (ha : a ≤ 0x1FFF) :
    ∃ b j, romCharacter s a = .ok (b, j) ∧ b < chrBanks s.cart ∧ j < 0x2000
      ∧ chrRead s a = .ok (byteAt s .chr (b * 0x2000 + j)) := by
  obtain ⟨b, j, h, hb, hj⟩ := romCharacter_ok s a hs ha
  exact ⟨b, j, h, hb, hj, by simp [chrRead, h, storageRead, hb, byteAt, State.memory]⟩

/-- A PPU-bus read never faults in a session (R66, R242). -/
theorem ppuBusRead_ok (s : State) (a : PpuAddr) (hs : StorageOk s) : ∃ b, ppuBusRead s a = .ok b := by
  simp only [ppuBusRead]
  split
  · rename_i h
    obtain ⟨b, j, -, -, -, hr⟩ := chrRead_ok s a.toNat hs h
    exact ⟨_, hr⟩
  · split <;> exact ⟨_, rfl⟩

/-! ### PPU-bus and storage writes: all they can do -/

/-- A CHR store changes the CHR memory only. -/
theorem chrStore_cases (s t : State) (b j : Nat) (d : Byte) (h : chrStore s b j d = .ok t) :
    b < chrBanks s.cart ∧ t = setCart { s.cart with chr := memWrite s.cart.chr (b * 0x2000 + j) d } s := by
  simp only [chrStore, storageWrite] at h
  split at h
  · rename_i m hm
    split at hm
    · rename_i hb
      cases hm; cases h
      exact ⟨hb, rfl⟩
    · cases hm
  · cases h

/-- A CHR write stores at the translated byte, or changes nothing (R243). -/
theorem chrWrite_cases (a : Nat) (d : Byte) (s t : State) (h : chrWrite a d s = .ok t) :
    (∃ b j, romCharacter s a = .ok (b, j) ∧ b < chrBanks s.cart
      ∧ t = setCart { s.cart with chr := memWrite s.cart.chr (b * 0x2000 + j) d } s)
    ∨ (s.cart.chrRomBanks ≠ 0 ∧ s.params.chrRomWrite = .ignore ∧ t = s) := by
  simp only [chrWrite] at h
  split at h
  · rename_i b j hbj
    split at h
    · obtain ⟨hb, rfl⟩ := chrStore_cases s t b j d h
      exact .inl ⟨b, j, hbj, hb, rfl⟩
    · rename_i hN
      split at h
      · obtain ⟨hb, rfl⟩ := chrStore_cases s t b j d h
        exact .inl ⟨b, j, hbj, hb, rfl⟩
      · rename_i hp
        cases h
        exact .inr ⟨hN, hp, rfl⟩
      · cases h
  · cases h

/-- A RAM write stores one byte of bank 0 (R244). -/
theorem ramWrite_cases (a : Addr) (d : Byte) (s t : State) (h : ramWrite a d s = .ok t) :
    t = setCart { s.cart with prgRam := memWrite s.cart.prgRam (ramOffset a) d } s := by
  simp only [ramWrite, storageWrite] at h
  split at h
  · rename_i m hm
    split at hm
    · cases hm; cases h; simp
    · cases hm
  · cases h

/-- NtIndex lies in the 2048 bytes of the nametables (R69). -/
theorem ntIndex_lt (m : Mirroring) (a : PpuAddr) : ntIndex m a < 2048 := by
  have h : ntPage m ((a.toNat - 0x2000) % 0x1000 / 0x400) ≤ 1 := by
    have : (a.toNat - 0x2000) % 0x1000 / 0x400 < 4 := by omega
    cases m <;> simp only [ntPage] <;> omega
  simp only [ntIndex]
  omega

/-- PalIndex lies in the 32 bytes of the palette (R70). -/
theorem palIndex_lt (a : PpuAddr) : palIndex a < 32 := (palFold _).isLt

/-! ### Scroll registers in numbers -/

/-- An appended bit vector in numbers. -/
theorem toNat_append_add {m n : Nat} (x : BitVec m) (y : BitVec n) : (x ++ y).toNat = x.toNat * 2 ^ n + y.toNat := by
  rw [BitVec.toNat_append, ← Nat.shiftLeft_add_eq_or_of_lt y.isLt, Nat.shiftLeft_eq]

/-- A scroll register in numbers (R20). -/
theorem scrollOf_toNat (fy : BitVec 3) (nt : BitVec 2) (cy cx : BitVec 5) : (scrollOf fy nt cy cx).toNat = fy.toNat * 4096 + nt.toNat * 1024 + cy.toNat * 32 + cx.toNat := by
  simp only [scrollOf, toNat_append_add]; omega

theorem coarseX_toNat (v : Scroll) : (coarseX v).toNat = v.toNat % 32 := by simp [coarseX]

theorem coarseY_toNat (v : Scroll) : (coarseY v).toNat = v.toNat / 32 % 32 := by simp [coarseY, Nat.shiftRight_eq_div_pow]

theorem nametable_toNat (v : Scroll) : (nametable v).toNat = v.toNat / 1024 % 4 := by simp [nametable, Nat.shiftRight_eq_div_pow]

theorem fineY_toNat (v : Scroll) : (fineY v).toNat = v.toNat / 4096 := by
  have := v.isLt
  simp [fineY, Nat.shiftRight_eq_div_pow]; omega

/-- The coarse-x increment in numbers (R176). -/
theorem incrementCoarseX_eq (v : Scroll) : incrementCoarseX v = if v.toNat % 32 = 31 then v ^^^ 0x041F#15 else v + 1#15 := by
  have e : coarseX v = 31#5 ↔ v.toNat % 32 = 31 := by
    rw [← BitVec.toNat_inj]; simp [coarseX]
  by_cases h : v.toNat % 32 = 31
  · rw [incrementCoarseX, if_pos (e.2 h), if_pos h]
    have hb : ∀ i, i < 5 → v.getLsbD i = true := by
      intro i hi
      have := congrArg (fun x => BitVec.getLsbD x i) (e.2 h)
      simp only [coarseX, BitVec.getLsbD_extractLsb', hi, decide_true, Bool.true_and, Nat.zero_add] at this
      rw [this]; interval_cases i <;> rfl
    apply BitVec.eq_of_getLsbD_eq
    intro i hi
    simp only [withNametable, withCoarseX, coarseY_scrollOf, coarseX_scrollOf, fineY_scrollOf]
    simp only [scrollOf, fineY, nametable, coarseY, BitVec.getLsbD_append, BitVec.getLsbD_extractLsb', BitVec.getLsbD_xor]
    have b0 := hb 0 (by omega); have b1 := hb 1 (by omega); have b2 := hb 2 (by omega); have b3 := hb 3 (by omega); have b4 := hb 4 (by omega)
    simp at b0 b1 b2 b3 b4
    interval_cases i <;> simp [b0, b1, b2, b3, b4]
  · rw [incrementCoarseX, if_neg (fun h' => h (e.1 h')), if_neg h]
    apply BitVec.eq_of_toNat_eq
    have hv := v.isLt
    have h5 : (1#5).toNat = 1 := rfl
    have h15 : (1#15).toNat = 1 := rfl
    simp only [withCoarseX, scrollOf_toNat, fineY_toNat, nametable_toNat, coarseY_toNat, BitVec.toNat_add, coarseX_toNat, h5, h15]
    omega

/-- The vertical increment in numbers (R177). -/
theorem incrementY_eq (v : Scroll) : incrementY v = if v.toNat / 0x1000 < 7 then v + 0x1000#15
          else if v.toNat / 32 % 32 = 29 then (v &&& 0x0C1F#15) ^^^ 0x0800#15
          else if v.toNat / 32 % 32 = 31 then v &&& 0x0C1F#15
          else (v &&& 0x0FFF#15) + 0x0020#15 := by
  have hv := v.isLt
  have e29 : coarseY v = 29#5 ↔ v.toNat / 32 % 32 = 29 := by rw [← BitVec.toNat_inj, coarseY_toNat]; rfl
  have e31 : coarseY v = 31#5 ↔ v.toNat / 32 % 32 = 31 := by rw [← BitVec.toNat_inj, coarseY_toNat]; rfl
  have hand : v &&& 0x0C1F#15 = scrollOf 0#3 (nametable v) 0#5 (coarseX v) := by
    apply BitVec.eq_of_getLsbD_eq
    intro i hi
    simp only [scrollOf, nametable, coarseX, BitVec.getLsbD_append, BitVec.getLsbD_extractLsb', BitVec.getLsbD_and]
    interval_cases i <;> simp
  have hand2 : v &&& 0x0FFF#15 = scrollOf 0#3 (nametable v) (coarseY v) (coarseX v) := by
    apply BitVec.eq_of_getLsbD_eq
    intro i hi
    simp only [scrollOf, nametable, coarseX, coarseY, BitVec.getLsbD_append, BitVec.getLsbD_extractLsb', BitVec.getLsbD_and]
    interval_cases i <;> simp
  simp only [incrementY, fineY_toNat, e29, e31, hand, hand2]
  split
  · apply BitVec.eq_of_toNat_eq
    have h1 : (1#3).toNat = 1 := rfl
    have h2 : (0x1000#15).toNat = 4096 := rfl
    simp only [withFineY, scrollOf_toNat, nametable_toNat, coarseY_toNat, BitVec.toNat_add, coarseX_toNat, fineY_toNat, h1, h2]
    omega
  · split
    · apply BitVec.eq_of_getLsbD_eq
      intro i hi
      simp only [withFineY, withCoarseY, withNametable, nametable_scrollOf, coarseX_scrollOf, fineY_scrollOf, coarseY_scrollOf]
      simp only [scrollOf, nametable, coarseX, BitVec.getLsbD_append, BitVec.getLsbD_extractLsb', BitVec.getLsbD_xor]
      interval_cases i <;> simp
    · split
      · simp only [withFineY, withCoarseY, nametable_scrollOf, coarseX_scrollOf, fineY_scrollOf]
      · apply BitVec.eq_of_toNat_eq
        have h1 : (1#5).toNat = 1 := rfl
        have h2 : (0x0020#15).toNat = 32 := rfl
        have h3 : (0#3).toNat = 0 := rfl
        simp only [withFineY, withCoarseY, nametable_scrollOf, coarseX_scrollOf, fineY_scrollOf, scrollOf_toNat, nametable_toNat, coarseY_toNat, BitVec.toNat_add, coarseX_toNat, h1, h2, h3]
        omega

/-- The PPUDATA step in numbers (R138). -/
theorem nextV_eq (s : State) : incrementV s.ppu.control s.ppu.v = nextV s := by
  apply BitVec.eq_of_toNat_eq
  by_cases h : s.ppu.control.getLsbD 2 = true
  · have h' : ctlIncrement s.ppu.control = true := h
    rw [incrementV, nextV, if_pos h', if_pos h]; simp
  · have h' : ¬ ctlIncrement s.ppu.control = true := h
    rw [incrementV, nextV, if_neg h', if_neg h]; simp

/-- The bus address of `v` (R68). -/
theorem busAddr_eq (v : Scroll) : busAddr v = v.setWidth 14 := by
  simp only [busAddr]
  apply BitVec.eq_of_toNat_eq
  simp

/-! ### Nametable, palette and storage accesses -/

/-- A PPU address of the bus (R66). -/
theorem ppuAddrOf_toNat (a : Addr) (h : a.toNat < 0x4000) : (ppuAddrOf a).toNat = a.toNat := by
  simp only [ppuAddrOf, BitVec.toNat_setWidth]; omega

/-- NtIndex by mirroring mode (R69). -/
theorem ntIndex_eq (m : Mirroring) (a : PpuAddr) : ntIndex m a =
    (match m with
      | .horizontal => (a.toNat - 0x2000) % 0x1000 / 0x800
      | .vertical => (a.toNat - 0x2000) % 0x1000 / 0x400 % 2
      | .oneScreenLower => 0
      | .oneScreenUpper => 1) * 0x400 + (a.toNat - 0x2000) % 0x1000 % 0x400 := by
  simp only [ntIndex, ntPage]
  cases m <;> simp only
  omega

/-- PalIndex in numbers (R70). -/
theorem palIndex_eq (a : PpuAddr) : palIndex a = if 16 ≤ a.toNat % 32 ∧ a.toNat % 32 % 4 = 0 then a.toNat % 32 - 16 else a.toNat % 32 := by
  have key : ∀ i : BitVec 5, (palFold i).toNat = if 16 ≤ i.toNat ∧ i.toNat % 4 = 0 then i.toNat - 16 else i.toNat := by decide
  simp only [palIndex, key, BitVec.extractLsb'_toNat, Nat.shiftRight_zero]

/-- A palette read at an index that is no alias (R70, R83). -/
theorem palRead_eq (s : State) (i : Nat) (h : i < 32) (h' : ¬ (16 ≤ i ∧ i % 4 = 0)) : palRead s (BitVec.ofNat 14 (0x3F00 + i)) = byteAt s .pal i := by
  have : palIndex (BitVec.ofNat 14 (0x3F00 + i)) = i := by
    have e : (BitVec.ofNat 14 (0x3F00 + i)).toNat % 32 = i := by rw [BitVec.toNat_ofNat]; omega
    rw [palIndex_eq, e, if_neg h']
  simp only [palRead, this]; rfl

/-- A nametable write writes its byte and no other (R82). -/
theorem ntWrite_bytes (s : State) (a : PpuAddr) (d : Byte) (hw : Memory.wf s.ppu.ntMem) :
    byteAt (ntWrite a d s) .nt (ntIndex s.mirroring a) = d ∧ SameBytesBut .nt (ntIndex s.mirroring a) s (ntWrite a d s) := by
  refine ⟨by simp [byteAt, State.memory, ntWrite, memRead_memWrite _ _ _ hw], ?_⟩
  intro k x hk
  cases k <;> simp only [byteAt, State.memory, ntWrite, setPpu]
  exact memRead_memWrite_other _ _ _ _ (fun e => hk ⟨rfl, e⟩)

/-- A palette write writes its byte and no other (R84). -/
theorem palWrite_bytes (s : State) (a : PpuAddr) (d : Byte) (hw : Memory.wf s.ppu.palMem) :
    byteAt (palWrite a d s) .pal (palIndex a) = d ∧ SameBytesBut .pal (palIndex a) s (palWrite a d s) := by
  refine ⟨by simp [byteAt, State.memory, palWrite, memRead_memWrite _ _ _ hw], ?_⟩
  intro k x hk
  cases k <;> simp only [byteAt, State.memory, palWrite, setPpu]
  exact memRead_memWrite_other _ _ _ _ (fun e => hk ⟨rfl, e⟩)

/-- A CHR store writes its byte and no other (R243). -/
theorem chrStore_bytes (s t : State) (a : Nat) (d : Byte) (hw : Memory.wf s.cart.chr) (hc : t.cart.chr = memWrite s.cart.chr a d)
    (hp : t.cart.prgRom = s.cart.prgRom) (hr : t.cart.prgRam = s.cart.prgRam) (h1 : t.ppu.oam = s.ppu.oam) (h2 : t.ppu.ntMem = s.ppu.ntMem) (h3 : t.ppu.palMem = s.ppu.palMem) :
    byteAt t .chr a = d ∧ SameBytesBut .chr a s t := by
  refine ⟨by simp [byteAt, State.memory, hc, memRead_memWrite _ _ _ hw], ?_⟩
  intro k x hk
  cases k <;> simp only [byteAt, State.memory, hp, hr, h1, h2, h3, hc]
  exact memRead_memWrite_other _ _ _ _ (fun e => hk ⟨rfl, e⟩)

/-- A CHR write that stores (R243). -/
theorem chrWrite_store (s : State) (a : Nat) (d : Byte) (hs : StorageOk s) (ha : a ≤ 0x1FFF)
   (hp : s.cart.chrRomBanks = 0 ∨ s.params.chrRomWrite = .store) : ∃ b j, romCharacter s a = .ok (b, j) ∧
     chrWrite a d s = .ok (setCart { s.cart with chr := memWrite s.cart.chr (b * 0x2000 + j) d } s) := by
  obtain ⟨b, j, h, hb, hj⟩ := romCharacter_ok s a hs ha
  refine ⟨b, j, h, ?_⟩
  have hst : chrStore s b j d = .ok (setCart { s.cart with chr := memWrite s.cart.chr (b * 0x2000 + j) d } s) := by
    simp only [chrStore, storageWrite, if_pos hb]
  simp only [chrWrite, h]
  split
  · exact hst
  · rename_i hn
    have : s.params.chrRomWrite = .store := hp.resolve_left hn
    simp only [this, hst]

/-- A CHR write that is ignored (R243). -/
theorem chrWrite_ignore (s : State) (a : Nat) (d : Byte) (hs : StorageOk s) (ha : a ≤ 0x1FFF)
   (hn : s.cart.chrRomBanks ≠ 0) (hp : s.params.chrRomWrite = .ignore) : chrWrite a d s = .ok s := by
  obtain ⟨b, j, h, hb, hj⟩ := romCharacter_ok s a hs ha
  simp only [chrWrite, h, if_neg hn, hp]

/-- A CHR write that faults (R243). -/
theorem chrWrite_fault (s : State) (a : Nat) (d : Byte) (hs : StorageOk s) (ha : a ≤ 0x1FFF)
   (hn : s.cart.chrRomBanks ≠ 0) (hp : s.params.chrRomWrite = .fault) : chrWrite a d s = .error (.unsupportedMapperAddress a) := by
  obtain ⟨b, j, h, hb, hj⟩ := romCharacter_ok s a hs ha
  simp only [chrWrite, h, if_neg hn, hp]

/-- When a CHR write faults (R243, R342). -/
theorem chrWrite_fault_cases (a : Nat) (d : Byte) (s : State) (f : Fault) (hs : StorageOk s) (ha : a ≤ 0x1FFF) (h : chrWrite a d s = .error f) :
   s.cart.chrRomBanks ≠ 0 ∧ s.params.chrRomWrite = .fault ∧ f = .unsupportedMapperAddress a := by
  obtain ⟨b, j, hr, hb, hj⟩ := romCharacter_ok s a hs ha
  have hst : chrStore s b j d = .ok (setCart { s.cart with chr := memWrite s.cart.chr (b * 0x2000 + j) d } s) := by
    simp only [chrStore, storageWrite, if_pos hb]
  simp only [chrWrite, hr, hst] at h
  split at h
  · cases h
  · rename_i hn
    split at h
    · cases h
    · cases h
    · rename_i hp; cases h; exact ⟨hn, hp, rfl⟩

/-- The RAM window is gated on MMC3 under Enforced only (R323). -/
theorem ramGate_eq_some (s : State) (p : Byte) :
    ramGate s = some p ↔ ∃ r, s.mapper = .mmc3 r ∧ s.params.mmc3RamProtect = .enforced ∧ r.ramProtect = p := by
  rw [ramGate]
  cases s.mapper <;> cases s.params.mmc3RamProtect <;> simp

end Sys2Proof.Machine
end

