-- ==== Sys2Proof/Laws/PerInstr.lean ====
section
/-! SUPPORT. Per instruction: the word of a well-formed instruction is of the instruction's own row of
spec/opcode_table.json, in every session (R103 to R107). -/

namespace Sys2Proof.Laws.RowMatch

/-- `(W AND mask) = match` for the row of `i` and the word that encodes it. -/
def Statement (i : Instr) : Prop := i.wf = true → ∀ mid : Byte, i.row.hits (encode mid i).word = true

/-- A row that ignores `mapper_id`. -/
theorem any_mapper (c am ap : BitVec 16) (cp : Byte) (mid : Byte) (sp : BitVec 2) (rw : Bool) (a : Addr)
    (hr : (0x00#8 ++ 0xFF#8 : BitVec 16) = c) (hc : 0#4 ++ sp ++ BitVec.ofBool rw ++ 0#1 = cp)
    (ha : a &&& am = ap) : Row.hits ⟨c ++ am, 0x00#8 ++ cp ++ ap⟩ (packWord mid sp rw a) = true := by
  subst hr
  exact hits_packWord 0x00 0x00 cp am ap mid sp rw a (by simp) hc ha

/-- A row of one mapper. -/
theorem own_mapper (c am ap : BitVec 16) (mid cp : Byte) (sp : BitVec 2) (rw : Bool) (a : Addr)
    (hr : (0xFF#8 ++ 0xFF#8 : BitVec 16) = c) (hc : 0#4 ++ sp ++ BitVec.ofBool rw ++ 0#1 = cp)
    (ha : a &&& am = ap) : Row.hits ⟨c ++ am, mid ++ cp ++ ap⟩ (packWord mid sp rw a) = true := by
  subst hr
  refine hits_packWord 0xFF mid cp am ap mid sp rw a ?_ hc ha
  exact BitVec.and_allOnes

theorem ppuCtrlW (a : Addr) (d : Byte) : Statement (.ppuCtrlW a d) := fun h mid =>
  any_mapper 0x00FF 0xE007 0x2000 0x02 mid 0 true a rfl rfl (by simpa [Instr.wf, portAddr, prgAddr, ramAddr, mmc1Addr, mmc3Addr, chrAddr, palAddr] using h)

theorem ppuMaskW (a : Addr) (d : Byte) : Statement (.ppuMaskW a d) := fun h mid =>
  any_mapper 0x00FF 0xE007 0x2001 0x02 mid 0 true a rfl rfl (by simpa [Instr.wf, portAddr, prgAddr, ramAddr, mmc1Addr, mmc3Addr, chrAddr, palAddr] using h)

theorem ppuStatusW (a : Addr) (d : Byte) : Statement (.ppuStatusW a d) := fun h mid =>
  any_mapper 0x00FF 0xE007 0x2002 0x02 mid 0 true a rfl rfl (by simpa [Instr.wf, portAddr, prgAddr, ramAddr, mmc1Addr, mmc3Addr, chrAddr, palAddr] using h)

theorem oamAddrW (a : Addr) (d : Byte) : Statement (.oamAddrW a d) := fun h mid =>
  any_mapper 0x00FF 0xE007 0x2003 0x02 mid 0 true a rfl rfl (by simpa [Instr.wf, portAddr, prgAddr, ramAddr, mmc1Addr, mmc3Addr, chrAddr, palAddr] using h)

theorem oamDataW (a : Addr) (d : Byte) : Statement (.oamDataW a d) := fun h mid =>
  any_mapper 0x00FF 0xE007 0x2004 0x02 mid 0 true a rfl rfl (by simpa [Instr.wf, portAddr, prgAddr, ramAddr, mmc1Addr, mmc3Addr, chrAddr, palAddr] using h)

theorem ppuScrollW (a : Addr) (d : Byte) : Statement (.ppuScrollW a d) := fun h mid =>
  any_mapper 0x00FF 0xE007 0x2005 0x02 mid 0 true a rfl rfl (by simpa [Instr.wf, portAddr, prgAddr, ramAddr, mmc1Addr, mmc3Addr, chrAddr, palAddr] using h)

theorem ppuAddrW (a : Addr) (d : Byte) : Statement (.ppuAddrW a d) := fun h mid =>
  any_mapper 0x00FF 0xE007 0x2006 0x02 mid 0 true a rfl rfl (by simpa [Instr.wf, portAddr, prgAddr, ramAddr, mmc1Addr, mmc3Addr, chrAddr, palAddr] using h)

theorem ppuDataW (a : Addr) (d : Byte) : Statement (.ppuDataW a d) := fun h mid =>
  any_mapper 0x00FF 0xE007 0x2007 0x02 mid 0 true a rfl rfl (by simpa [Instr.wf, portAddr, prgAddr, ramAddr, mmc1Addr, mmc3Addr, chrAddr, palAddr] using h)

theorem ppuCtrlR (a : Addr) : Statement (.ppuCtrlR a) := fun h mid =>
  any_mapper 0x00FF 0xE007 0x2000 0x00 mid 0 false a rfl rfl (by simpa [Instr.wf, portAddr, prgAddr, ramAddr, mmc1Addr, mmc3Addr, chrAddr, palAddr] using h)

theorem ppuMaskR (a : Addr) : Statement (.ppuMaskR a) := fun h mid =>
  any_mapper 0x00FF 0xE007 0x2001 0x00 mid 0 false a rfl rfl (by simpa [Instr.wf, portAddr, prgAddr, ramAddr, mmc1Addr, mmc3Addr, chrAddr, palAddr] using h)

theorem ppuStatusR (a : Addr) : Statement (.ppuStatusR a) := fun h mid =>
  any_mapper 0x00FF 0xE007 0x2002 0x00 mid 0 false a rfl rfl (by simpa [Instr.wf, portAddr, prgAddr, ramAddr, mmc1Addr, mmc3Addr, chrAddr, palAddr] using h)

theorem oamAddrR (a : Addr) : Statement (.oamAddrR a) := fun h mid =>
  any_mapper 0x00FF 0xE007 0x2003 0x00 mid 0 false a rfl rfl (by simpa [Instr.wf, portAddr, prgAddr, ramAddr, mmc1Addr, mmc3Addr, chrAddr, palAddr] using h)

theorem oamDataR (a : Addr) : Statement (.oamDataR a) := fun h mid =>
  any_mapper 0x00FF 0xE007 0x2004 0x00 mid 0 false a rfl rfl (by simpa [Instr.wf, portAddr, prgAddr, ramAddr, mmc1Addr, mmc3Addr, chrAddr, palAddr] using h)

theorem ppuScrollR (a : Addr) : Statement (.ppuScrollR a) := fun h mid =>
  any_mapper 0x00FF 0xE007 0x2005 0x00 mid 0 false a rfl rfl (by simpa [Instr.wf, portAddr, prgAddr, ramAddr, mmc1Addr, mmc3Addr, chrAddr, palAddr] using h)

theorem ppuAddrR (a : Addr) : Statement (.ppuAddrR a) := fun h mid =>
  any_mapper 0x00FF 0xE007 0x2006 0x00 mid 0 false a rfl rfl (by simpa [Instr.wf, portAddr, prgAddr, ramAddr, mmc1Addr, mmc3Addr, chrAddr, palAddr] using h)

theorem ppuDataR (a : Addr) : Statement (.ppuDataR a) := fun h mid =>
  any_mapper 0x00FF 0xE007 0x2007 0x00 mid 0 false a rfl rfl (by simpa [Instr.wf, portAddr, prgAddr, ramAddr, mmc1Addr, mmc3Addr, chrAddr, palAddr] using h)

theorem prgR (a : Addr) : Statement (.prgR a) := fun h mid =>
  any_mapper 0x00FF 0x8000 0x8000 0x00 mid 0 false a rfl rfl (by simpa [Instr.wf, portAddr, prgAddr, ramAddr, mmc1Addr, mmc3Addr, chrAddr, palAddr] using h)

theorem ramR (a : Addr) : Statement (.ramR a) := fun h mid =>
  any_mapper 0x00FF 0xE000 0x6000 0x00 mid 0 false a rfl rfl (by simpa [Instr.wf, portAddr, prgAddr, ramAddr, mmc1Addr, mmc3Addr, chrAddr, palAddr] using h)

theorem ramW (a : Addr) (d : Byte) : Statement (.ramW a d) := fun h mid =>
  any_mapper 0x00FF 0xE000 0x6000 0x02 mid 0 true a rfl rfl (by simpa [Instr.wf, portAddr, prgAddr, ramAddr, mmc1Addr, mmc3Addr, chrAddr, palAddr] using h)

theorem nromPrgW (a : Addr) (d : Byte) : Statement (.nromPrgW a d) := fun h mid =>
  own_mapper 0xFFFF 0x8000 0x8000 0 0x02 0 true a rfl rfl (by simpa [Instr.wf, portAddr, prgAddr, ramAddr, mmc1Addr, mmc3Addr, chrAddr, palAddr] using h)

theorem uxromBankW (a : Addr) (d : Byte) : Statement (.uxromBankW a d) := fun h mid =>
  own_mapper 0xFFFF 0x8000 0x8000 2 0x02 0 true a rfl rfl (by simpa [Instr.wf, portAddr, prgAddr, ramAddr, mmc1Addr, mmc3Addr, chrAddr, palAddr] using h)

theorem cnromBankW (a : Addr) (d : Byte) : Statement (.cnromBankW a d) := fun h mid =>
  own_mapper 0xFFFF 0x8000 0x8000 3 0x02 0 true a rfl rfl (by simpa [Instr.wf, portAddr, prgAddr, ramAddr, mmc1Addr, mmc3Addr, chrAddr, palAddr] using h)

theorem mmc1ControlW (a : Addr) (d : Byte) : Statement (.mmc1ControlW a d) := fun h mid =>
  own_mapper 0xFFFF 0xE000 0x8000 1 0x02 0 true a rfl rfl (by simpa [Instr.wf, portAddr, prgAddr, ramAddr, mmc1Addr, mmc3Addr, chrAddr, palAddr] using h)

theorem mmc1Chr0W (a : Addr) (d : Byte) : Statement (.mmc1Chr0W a d) := fun h mid =>
  own_mapper 0xFFFF 0xE000 0xA000 1 0x02 0 true a rfl rfl (by simpa [Instr.wf, portAddr, prgAddr, ramAddr, mmc1Addr, mmc3Addr, chrAddr, palAddr] using h)

theorem mmc1Chr1W (a : Addr) (d : Byte) : Statement (.mmc1Chr1W a d) := fun h mid =>
  own_mapper 0xFFFF 0xE000 0xC000 1 0x02 0 true a rfl rfl (by simpa [Instr.wf, portAddr, prgAddr, ramAddr, mmc1Addr, mmc3Addr, chrAddr, palAddr] using h)

theorem mmc1PrgW (a : Addr) (d : Byte) : Statement (.mmc1PrgW a d) := fun h mid =>
  own_mapper 0xFFFF 0xE000 0xE000 1 0x02 0 true a rfl rfl (by simpa [Instr.wf, portAddr, prgAddr, ramAddr, mmc1Addr, mmc3Addr, chrAddr, palAddr] using h)

theorem mmc3BankSelectW (a : Addr) (d : Byte) : Statement (.mmc3BankSelectW a d) := fun h mid =>
  own_mapper 0xFFFF 0xE001 0x8000 4 0x02 0 true a rfl rfl (by simpa [Instr.wf, portAddr, prgAddr, ramAddr, mmc1Addr, mmc3Addr, chrAddr, palAddr] using h)

theorem mmc3BankDataW (a : Addr) (d : Byte) : Statement (.mmc3BankDataW a d) := fun h mid =>
  own_mapper 0xFFFF 0xE001 0x8001 4 0x02 0 true a rfl rfl (by simpa [Instr.wf, portAddr, prgAddr, ramAddr, mmc1Addr, mmc3Addr, chrAddr, palAddr] using h)

theorem mmc3MirroringW (a : Addr) (d : Byte) : Statement (.mmc3MirroringW a d) := fun h mid =>
  own_mapper 0xFFFF 0xE001 0xA000 4 0x02 0 true a rfl rfl (by simpa [Instr.wf, portAddr, prgAddr, ramAddr, mmc1Addr, mmc3Addr, chrAddr, palAddr] using h)

theorem mmc3RamProtectW (a : Addr) (d : Byte) : Statement (.mmc3RamProtectW a d) := fun h mid =>
  own_mapper 0xFFFF 0xE001 0xA001 4 0x02 0 true a rfl rfl (by simpa [Instr.wf, portAddr, prgAddr, ramAddr, mmc1Addr, mmc3Addr, chrAddr, palAddr] using h)

theorem mmc3IrqLatchW (a : Addr) (d : Byte) : Statement (.mmc3IrqLatchW a d) := fun h mid =>
  own_mapper 0xFFFF 0xE001 0xC000 4 0x02 0 true a rfl rfl (by simpa [Instr.wf, portAddr, prgAddr, ramAddr, mmc1Addr, mmc3Addr, chrAddr, palAddr] using h)

theorem mmc3IrqReloadW (a : Addr) (d : Byte) : Statement (.mmc3IrqReloadW a d) := fun h mid =>
  own_mapper 0xFFFF 0xE001 0xC001 4 0x02 0 true a rfl rfl (by simpa [Instr.wf, portAddr, prgAddr, ramAddr, mmc1Addr, mmc3Addr, chrAddr, palAddr] using h)

theorem mmc3IrqDisableW (a : Addr) (d : Byte) : Statement (.mmc3IrqDisableW a d) := fun h mid =>
  own_mapper 0xFFFF 0xE001 0xE000 4 0x02 0 true a rfl rfl (by simpa [Instr.wf, portAddr, prgAddr, ramAddr, mmc1Addr, mmc3Addr, chrAddr, palAddr] using h)

theorem mmc3IrqEnableW (a : Addr) (d : Byte) : Statement (.mmc3IrqEnableW a d) := fun h mid =>
  own_mapper 0xFFFF 0xE001 0xE001 4 0x02 0 true a rfl rfl (by simpa [Instr.wf, portAddr, prgAddr, ramAddr, mmc1Addr, mmc3Addr, chrAddr, palAddr] using h)

theorem chrR (a : Addr) : Statement (.chrR a) := fun h mid =>
  any_mapper 0x00FF 0xE000 0x0000 0x04 mid 1 false a rfl rfl (by simpa [Instr.wf, portAddr, prgAddr, ramAddr, mmc1Addr, mmc3Addr, chrAddr, palAddr] using h)

theorem chrW (a : Addr) (d : Byte) : Statement (.chrW a d) := fun h mid =>
  any_mapper 0x00FF 0xE000 0x0000 0x06 mid 1 true a rfl rfl (by simpa [Instr.wf, portAddr, prgAddr, ramAddr, mmc1Addr, mmc3Addr, chrAddr, palAddr] using h)

theorem ntR (a : Addr) : Statement (.ntR a) := fun h mid =>
  any_mapper 0x00FF 0xE000 0x2000 0x04 mid 1 false a rfl rfl (by simp [Instr.wf, ntAddr] at h; exact h.1)

theorem ntW (a : Addr) (d : Byte) : Statement (.ntW a d) := fun h mid =>
  any_mapper 0x00FF 0xE000 0x2000 0x06 mid 1 true a rfl rfl (by simp [Instr.wf, ntAddr] at h; exact h.1)

theorem palR (a : Addr) : Statement (.palR a) := fun h mid =>
  any_mapper 0x00FF 0xFF00 0x3F00 0x04 mid 1 false a rfl rfl (by simpa [Instr.wf, portAddr, prgAddr, ramAddr, mmc1Addr, mmc3Addr, chrAddr, palAddr] using h)

theorem palW (a : Addr) (d : Byte) : Statement (.palW a d) := fun h mid =>
  any_mapper 0x00FF 0xFF00 0x3F00 0x06 mid 1 true a rfl rfl (by simpa [Instr.wf, portAddr, prgAddr, ramAddr, mmc1Addr, mmc3Addr, chrAddr, palAddr] using h)

theorem tick : Statement (.tick) := fun _ mid =>
  any_mapper 0x00FF 0xFFFF 0x0000 0x08 mid 2 false 0x0000#16 rfl rfl (by decide)

theorem reset : Statement (.reset) := fun _ mid =>
  any_mapper 0x00FF 0xFFFF 0x0002 0x08 mid 2 false 0x0002#16 rfl rfl (by decide)

theorem nromHook : Statement (.nromHook) := fun _ mid =>
  own_mapper 0xFFFF 0xFFFF 0x0001 0 0x08 2 false 0x0001#16 rfl rfl (by decide)

theorem mmc1Hook : Statement (.mmc1Hook) := fun _ mid =>
  own_mapper 0xFFFF 0xFFFF 0x0001 1 0x08 2 false 0x0001#16 rfl rfl (by decide)

theorem uxromHook : Statement (.uxromHook) := fun _ mid =>
  own_mapper 0xFFFF 0xFFFF 0x0001 2 0x08 2 false 0x0001#16 rfl rfl (by decide)

theorem cnromHook : Statement (.cnromHook) := fun _ mid =>
  own_mapper 0xFFFF 0xFFFF 0x0001 3 0x08 2 false 0x0001#16 rfl rfl (by decide)

theorem mmc3Hook : Statement (.mmc3Hook) := fun _ mid =>
  own_mapper 0xFFFF 0xFFFF 0x0001 4 0x08 2 false 0x0001#16 rfl rfl (by decide)

end Sys2Proof.Laws.RowMatch
end

