-- ==== Sys2Proof/Laws/Tick.lean ====
section
/-! SUPPORT. One inversion lemma per step of a tick: everything the step can change, and that no step of a tick
raises in a session. -/

namespace Sys2Proof.Machine

/-! ### The sprite step -/

/-- A loaded slot keeps everything but its two pattern bytes (R206). -/
theorem loadSlots_length (s : State) (line : Int) (es es' : List SpriteEntry) (h : loadSlots s line es = .ok es') :
    es'.length = es.length := by
  induction es generalizing es' with
  | nil => simp only [loadSlots] at h; cases h; rfl
  | cons e es ih =>
    simp only [loadSlots] at h
    split at h
    · rename_i e1 es1 _ h2
      cases h
      simp [ih es1 h2]
    · cases h
    · cases h

theorem loadSlot_ok (s : State) (line : Int) (e : SpriteEntry) (hs : StorageOk s) :
    ∃ e', loadSlot s line e = .ok e' := by
  simp only [loadSlot]
  split
  · exact ⟨_, rfl⟩
  · obtain ⟨lo, h1⟩ := ppuBusRead_ok s (spriteAddr s.ppu.control e (spriteRow (spriteHeight s.ppu.control) line e)) hs
    obtain ⟨hi, h2⟩ :=
      ppuBusRead_ok s (spriteAddr s.ppu.control e (spriteRow (spriteHeight s.ppu.control) line e) + 8#14) hs
    simp only [h1, h2]
    exact ⟨_, rfl⟩

theorem loadSlots_ok (s : State) (line : Int) (es : List SpriteEntry) (hs : StorageOk s) :
    ∃ es', loadSlots s line es = .ok es' := by
  induction es with
  | nil => exact ⟨_, rfl⟩
  | cons e es ih =>
    obtain ⟨e', h1⟩ := loadSlot_ok s line e hs
    obtain ⟨es', h2⟩ := ih
    exact ⟨e' :: es', by simp [loadSlots, h1, h2]⟩

theorem selectedEntries_length (line : Int) (p : Ppu) : (selectedEntries line p).length ≤ 8 := by
  simp only [selectedEntries, List.length_map, List.length_take]
  omega

/-- Evaluation keeps the number of slots (R204). -/
theorem evaluateSprites_length (line : Int) (p : Ppu) (h : p.secondary.length = 8) :
    (evaluateSprites line p).secondary.length = 8 := by
  have := selectedEntries_length line p
  simp only [evaluateSprites, List.length_append, List.length_drop, h]
  omega

/-- The PPU fields that no step of a tick before its advance changes. -/
structure PpuKept (p q : Ppu) : Prop where
  t : q.t = p.t
  fineX : q.fineX = p.fineX
  w : q.w = p.w
  readBuffer : q.readBuffer = p.readBuffer
  oamAddr : q.oamAddr = p.oamAddr
  control : q.control = p.control
  mask : q.mask = p.mask
  oam : q.oam = p.oam
  ntMem : q.ntMem = p.ntMem
  palMem : q.palMem = p.palMem

theorem PpuKept.refl (p : Ppu) : PpuKept p p := ⟨rfl, rfl, rfl, rfl, rfl, rfl, rfl, rfl, rfl, rfl⟩

theorem PpuKept.trans {p q r : Ppu} (h : PpuKept p q) (g : PpuKept q r) : PpuKept p r :=
  ⟨g.t.trans h.t, g.fineX.trans h.fineX, g.w.trans h.w, g.readBuffer.trans h.readBuffer, g.oamAddr.trans h.oamAddr,
    g.control.trans h.control, g.mask.trans h.mask, g.oam.trans h.oam, g.ntMem.trans h.ntMem,
    g.palMem.trans h.palMem⟩

/-- The position of two PPUs is the same (R23). -/
structure PositionKept (p q : Ppu) : Prop where
  scanline : q.scanline = p.scanline
  dot : q.dot = p.dot
  frameOdd : q.frameOdd = p.frameOdd

theorem PositionKept.refl (p : Ppu) : PositionKept p p := ⟨rfl, rfl, rfl⟩

theorem PositionKept.trans {p q r : Ppu} (h : PositionKept p q) (g : PositionKept q r) : PositionKept p r :=
  ⟨g.scanline.trans h.scanline, g.dot.trans h.dot, g.frameOdd.trans h.frameOdd⟩

/-- The background fetch latches and feed bits of two PPUs are the same (R22). -/
structure LatchesKept (p q : Ppu) : Prop where
  atFeedLow : q.atFeedLow = p.atFeedLow
  atFeedHigh : q.atFeedHigh = p.atFeedHigh
  fetchAddr : q.fetchAddr = p.fetchAddr
  ntByte : q.ntByte = p.ntByte
  atByte : q.atByte = p.atByte
  patternLow : q.patternLow = p.patternLow
  patternHigh : q.patternHigh = p.patternHigh

theorem LatchesKept.refl (p : Ppu) : LatchesKept p p := ⟨rfl, rfl, rfl, rfl, rfl, rfl, rfl⟩

/-- The shift registers of two PPUs are the same (R22). -/
structure ShiftersKept (p q : Ppu) : Prop where
  bgShiftLow : q.bgShiftLow = p.bgShiftLow
  bgShiftHigh : q.bgShiftHigh = p.bgShiftHigh
  atShiftLow : q.atShiftLow = p.atShiftLow
  atShiftHigh : q.atShiftHigh = p.atShiftHigh

theorem ShiftersKept.refl (p : Ppu) : ShiftersKept p p := ⟨rfl, rfl, rfl, rfl⟩

/-- What the sprite step can do (R200 to R206): the sprite arrays, and `sprite_overflow` set. -/
structure SpriteFrame (p q : Ppu) : Prop where
  kept : PpuKept p q
  position : PositionKept p q
  latches : LatchesKept p q
  shifters : ShiftersKept p q
  v : q.v = p.v
  spriteZeroHit : q.status.spriteZeroHit = p.status.spriteZeroHit
  verticalBlank : q.status.verticalBlank = p.status.verticalBlank
  overflowStays : p.status.spriteOverflow = true → q.status.spriteOverflow = true
  spritesLength : q.sprites.length = p.sprites.length ∨ q.sprites.length = p.secondary.length
  secondaryLength : p.secondary.length = 8 → q.secondary.length = 8

theorem SpriteFrame.refl (p : Ppu) : SpriteFrame p p :=
  ⟨.refl p, .refl p, .refl p, .refl p, rfl, rfl, rfl, id, .inl rfl, id⟩

theorem clearSecondary_frame (p : Ppu) : SpriteFrame p (clearSecondary p) :=
  ⟨(by constructor <;> rfl), (by constructor <;> rfl),
    (by constructor <;> rfl), (by constructor <;> rfl), rfl, rfl, rfl, id, .inl rfl,
    fun _ => by simp [clearSecondary]⟩

theorem evaluateSprites_frame (line : Int) (p : Ppu) : SpriteFrame p (evaluateSprites line p) :=
  ⟨(by constructor <;> rfl), (by constructor <;> rfl),
    (by constructor <;> rfl), (by constructor <;> rfl), rfl, rfl, rfl,
    fun h => by simp [evaluateSprites, statusAfterEvaluation, h],
    .inl rfl, evaluateSprites_length line p⟩

theorem loadSprites_frame (s : State) (line : Int) (p : Ppu) (h : loadSprites s line = .ok p) : SpriteFrame s.ppu p := by
  simp only [loadSprites] at h
  split at h
  · rename_i es hes
    cases h
    exact ⟨(by constructor <;> rfl), (by constructor <;> rfl),
      (by constructor <;> rfl), (by constructor <;> rfl), rfl, rfl, rfl, id, .inr (loadSlots_length _ _ _ _ hes), id⟩
  · cases h

/-- All the sprite step can do. -/
theorem spritePpu_frame (s : State) (p : Ppu) (h : spritePpu s = .ok p) : SpriteFrame s.ppu p := by
  simp only [spritePpu] at h
  split at h
  · cases h
    split
    · exact clearSecondary_frame _
    · exact .refl _
  · split at h
    · cases h
      split
      · exact evaluateSprites_frame _ _
      · exact .refl _
    · split at h
      · split at h
        · exact loadSprites_frame _ _ _ h
        · cases h; exact .refl _
      · cases h; exact .refl _

theorem spritePpu_ok (s : State) (hs : StorageOk s) : ∃ p, spritePpu s = .ok p := by
  obtain ⟨es, h⟩ := loadSlots_ok s (spriteLine s.ppu.scanline) s.ppu.secondary hs
  simp only [spritePpu]
  split
  · exact ⟨_, rfl⟩
  · split
    · exact ⟨_, rfl⟩
    · split
      · split
        · exact ⟨{ s.ppu with sprites := es }, by simp only [loadSprites, h]⟩
        · exact ⟨_, rfl⟩
      · exact ⟨_, rfl⟩

/-! ### The state outside the PPU -/

/-- What no tick changes outside the PPU; the mapper and the event trace are not in it. -/
structure BlockKept (s t : State) : Prop where
  mirroring : t.mirroring = s.mirroring
  prgTable : t.prgTable = s.prgTable
  chrTable : t.chrTable = s.chrTable
  cart : t.cart = s.cart
  params : t.params = s.params
  loaded : t.loaded = s.loaded
  started : t.started = s.started
  result : t.result = s.result
  pending : t.pending = s.pending
  draws : t.draws = s.draws

theorem BlockKept.refl (s : State) : BlockKept s s := ⟨rfl, rfl, rfl, rfl, rfl, rfl, rfl, rfl, rfl, rfl⟩

theorem BlockKept.trans {s t u : State} (h : BlockKept s t) (g : BlockKept t u) : BlockKept s u :=
  ⟨g.mirroring.trans h.mirroring, g.prgTable.trans h.prgTable, g.chrTable.trans h.chrTable, g.cart.trans h.cart,
    g.params.trans h.params, g.loaded.trans h.loaded, g.started.trans h.started, g.result.trans h.result,
    g.pending.trans h.pending, g.draws.trans h.draws⟩

/-! ### The pixel step -/

/-- What the pixel step can do (R167, R175, R210 to R217): the shifters move, `sprite_0_hit` may be set, and one
`display_write` is emitted at dots 2 to 257 of a visible line. -/
structure PixelFrame (s t : State) : Prop where
  block : BlockKept s t
  mapper : t.mapper = s.mapper
  kept : PpuKept s.ppu t.ppu
  position : PositionKept s.ppu t.ppu
  latches : LatchesKept s.ppu t.ppu
  v : t.ppu.v = s.ppu.v
  sprites : t.ppu.sprites = s.ppu.sprites
  secondary : t.ppu.secondary = s.ppu.secondary
  spriteOverflow : t.ppu.status.spriteOverflow = s.ppu.status.spriteOverflow
  verticalBlank : t.ppu.status.verticalBlank = s.ppu.status.verticalBlank
  hitStays : s.ppu.status.spriteZeroHit = true → t.ppu.status.spriteZeroHit = true
  hitKept : ¬ (s.ppu.scanline ≤ 239 ∧ 2 ≤ s.ppu.dot ∧ s.ppu.dot ≤ 257) →
    t.ppu.status.spriteZeroHit = s.ppu.status.spriteZeroHit
  events : t.events = s.events ++
    if s.ppu.scanline ≤ 239 ∧ 2 ≤ s.ppu.dot ∧ s.ppu.dot ≤ 257 then
      [.displayWrite (s.ppu.dot - 2) s.ppu.scanline (pixelColour s (pixelIndex s.ppu (s.ppu.dot - 2)))]
    else []

/-- All the pixel step can do. -/
theorem pixelStep_frame (s : State) : PixelFrame s (pixelStep s) := by
  simp only [pixelStep, generatePixel]
  split
  · split
    · rename_i hd hx
      refine ⟨(by constructor <;> rfl), rfl, (by constructor <;> rfl),
        (by constructor <;> rfl), (by constructor <;> rfl), rfl, rfl, rfl, rfl, rfl, fun h => ?_, fun h => absurd h (by omega), ?_⟩
      · simp [shiftRegisters, outputPixel, statusAfterPixel, h]
      · rw [if_pos (by omega)]; rfl
    · rename_i hd hx
      refine ⟨(by constructor <;> rfl), rfl, (by constructor <;> rfl),
        (by constructor <;> rfl), (by constructor <;> rfl), rfl, rfl, rfl, rfl, rfl, id, fun _ => rfl, ?_⟩
      rw [if_neg (by omega)]; simp
  · rename_i hd
    refine ⟨(by constructor <;> rfl), rfl, (by constructor <;> rfl),
        (by constructor <;> rfl), (by constructor <;> rfl), rfl, rfl, rfl, rfl, rfl, id, fun _ => rfl, ?_⟩
    rw [if_neg (by omega)]; simp

/-! ### The background step -/

theorem fetchInto_cases (f : Byte → Ppu) (s : State) (q : Ppu) (h : fetchInto f s = .ok q) :
    ∃ b, ppuBusRead s s.ppu.fetchAddr = .ok b ∧ q = f b := by
  simp only [fetchInto] at h
  split at h
  · cases h; exact ⟨_, by assumption, rfl⟩
  · cases h

theorem fetchInto_ok (f : Byte → Ppu) (s : State) (hs : StorageOk s) : ∃ q, fetchInto f s = .ok q := by
  obtain ⟨b, h⟩ := ppuBusRead_ok s s.ppu.fetchAddr hs
  exact ⟨f b, by simp [fetchInto, h]⟩

/-- What the background step can do (R165 to R175): the latches, the feed bits and the low halves of the pattern
shifters. -/
structure BackgroundFrame (p q : Ppu) : Prop where
  kept : PpuKept p q
  position : PositionKept p q
  v : q.v = p.v
  sprites : q.sprites = p.sprites
  secondary : q.secondary = p.secondary
  status : q.status = p.status
  atShiftLow : q.atShiftLow = p.atShiftLow
  atShiftHigh : q.atShiftHigh = p.atShiftHigh

theorem BackgroundFrame.refl (p : Ppu) : BackgroundFrame p p := ⟨.refl p, .refl p, rfl, rfl, rfl, rfl, rfl, rfl⟩

/-- All the background step can do. -/
theorem backgroundPpu_frame (s : State) (q : Ppu) (h : backgroundPpu s = .ok q) : BackgroundFrame s.ppu q := by
  have hread : ∀ (f : Byte → Ppu), (∀ b, BackgroundFrame s.ppu (f b)) → fetchInto f s = .ok q →
      BackgroundFrame s.ppu q := by
    intro f hf h
    obtain ⟨b, -, rfl⟩ := fetchInto_cases f s q h
    exact hf b
  have hnt : ntReadStep s = .ok q → BackgroundFrame s.ppu q := hread _ fun _ =>
    ⟨(by constructor <;> rfl), (by constructor <;> rfl), rfl, rfl, rfl, rfl, rfl, rfl⟩
  have hat : atReadStep s = .ok q → BackgroundFrame s.ppu q := hread _ fun _ =>
    ⟨(by constructor <;> rfl), (by constructor <;> rfl), rfl, rfl, rfl, rfl, rfl, rfl⟩
  have hpl : patLowStep s = .ok q → BackgroundFrame s.ppu q := hread _ fun _ =>
    ⟨(by constructor <;> rfl), (by constructor <;> rfl), rfl, rfl, rfl, rfl, rfl, rfl⟩
  have hph : patHighStep s = .ok q → BackgroundFrame s.ppu q := hread _ fun _ =>
    ⟨(by constructor <;> rfl), (by constructor <;> rfl), rfl, rfl, rfl, rfl, rfl, rfl⟩
  simp only [backgroundPpu] at h
  split at h
  · simp only [microCycle] at h
    split at h
    · cases h; constructor <;> first | rfl | (constructor <;> rfl)
    · exact hnt h
    · cases h; constructor <;> first | rfl | (constructor <;> rfl)
    · exact hat h
    · cases h; constructor <;> first | rfl | (constructor <;> rfl)
    · exact hpl h
    · cases h; constructor <;> first | rfl | (constructor <;> rfl)
    · exact hph h
  · split at h
    · cases h; constructor <;> first | rfl | (constructor <;> rfl)
    · split at h
      · exact hph h
      · split at h
        · cases h; constructor <;> first | rfl | (constructor <;> rfl)
        · split at h
          · exact hnt h
          · cases h; constructor <;> first | rfl | (constructor <;> rfl)

theorem backgroundPpu_ok (s : State) (hs : StorageOk s) : ∃ q, backgroundPpu s = .ok q := by
  simp only [backgroundPpu, microCycle, ntReadStep, atReadStep, patLowStep, patHighStep]
  repeat' split
  all_goals first
    | exact ⟨_, rfl⟩
    | exact fetchInto_ok _ s hs

/-! ### The steps of a rendering line together -/

/-- What steps (1) to (4) of R164 can do. -/
structure LineFrame (s t : State) : Prop where
  block : BlockKept s t
  mapper : t.mapper = s.mapper
  kept : PpuKept s.ppu t.ppu
  position : PositionKept s.ppu t.ppu
  v : t.ppu.v = if rendering s.ppu.mask then scrolledV s.ppu else s.ppu.v
  verticalBlank : t.ppu.status.verticalBlank = s.ppu.status.verticalBlank
  overflowStays : s.ppu.status.spriteOverflow = true → t.ppu.status.spriteOverflow = true
  hitStays : s.ppu.status.spriteZeroHit = true → t.ppu.status.spriteZeroHit = true
  hitKept : ¬ (s.ppu.scanline ≤ 239 ∧ 2 ≤ s.ppu.dot ∧ s.ppu.dot ≤ 257) →
    t.ppu.status.spriteZeroHit = s.ppu.status.spriteZeroHit
  slots : SlotsOk s → SlotsOk t
  events : ∃ c, t.events = s.events ++
    if s.ppu.scanline ≤ 239 ∧ 2 ≤ s.ppu.dot ∧ s.ppu.dot ≤ 257 then
      [.displayWrite (s.ppu.dot - 2) s.ppu.scanline c]
    else []

theorem scrolledV_congr (p q : Ppu) (hp : PositionKept p q) (hv : q.v = p.v) (ht : q.t = p.t) :
    scrolledV q = scrolledV p := by
  simp only [scrolledV, hp.dot, hp.scanline, hv, ht]

/-- All the steps of a rendering line can do. -/
theorem lineSteps_frame (s t : State) (h : lineSteps s = .ok t) : LineFrame s t := by
  simp only [lineSteps] at h
  split at h
  · rename_i p hp
    split at h
    · rename_i q hq
      cases h
      have h1 := spritePpu_frame s p hp
      have h2 := pixelStep_frame (setPpu p s)
      have h3 := backgroundPpu_frame _ q hq
      have kept : PpuKept s.ppu q := (h1.kept.trans h2.kept).trans h3.kept
      have position : PositionKept s.ppu q := (h1.position.trans h2.position).trans h3.position
      have hv : q.v = s.ppu.v := (h3.v.trans h2.v).trans h1.v
      have block : BlockKept s (pixelStep (setPpu p s)) :=
        ⟨h2.block.mirroring, h2.block.prgTable, h2.block.chrTable, h2.block.cart, h2.block.params, h2.block.loaded,
          h2.block.started, h2.block.result, h2.block.pending, h2.block.draws⟩
      have hst : q.status = (pixelStep (setPpu p s)).ppu.status := h3.status
      have slots : SlotsOk s → q.sprites.length = 8 ∧ q.secondary.length = 8 := by
        intro hs
        rw [h3.sprites, h3.secondary, h2.sprites, h2.secondary]
        refine ⟨?_, h1.secondaryLength hs.2⟩
        rcases h1.spritesLength with e | e
        · exact e.trans hs.1
        · exact e.trans hs.2
      have events : ∃ c, (pixelStep (setPpu p s)).events = s.events ++
          if s.ppu.scanline ≤ 239 ∧ 2 ≤ s.ppu.dot ∧ s.ppu.dot ≤ 257 then
            [.displayWrite (s.ppu.dot - 2) s.ppu.scanline c] else [] := by
        have e := h2.events
        simp only [setPpu_ppu, setPpu_events, h1.position.scanline, h1.position.dot] at e
        exact ⟨_, e⟩
      have vb : q.status.verticalBlank = s.ppu.status.verticalBlank := by
        rw [hst, h2.verticalBlank]; exact h1.verticalBlank
      have ov : s.ppu.status.spriteOverflow = true → q.status.spriteOverflow = true := by
        intro ho
        rw [hst, h2.spriteOverflow]
        exact h1.overflowStays ho
      have hit : s.ppu.status.spriteZeroHit = true → q.status.spriteZeroHit = true := by
        intro ho
        rw [hst]
        exact h2.hitStays (h1.spriteZeroHit.trans ho)
      have hitKept : ¬ (s.ppu.scanline ≤ 239 ∧ 2 ≤ s.ppu.dot ∧ s.ppu.dot ≤ 257) →
          q.status.spriteZeroHit = s.ppu.status.spriteZeroHit := by
        intro hn
        rw [hst, h2.hitKept (by simpa only [setPpu_ppu, h1.position.scanline, h1.position.dot] using hn)]
        exact h1.spriteZeroHit
      have hr : rendering q.mask = rendering s.ppu.mask := by rw [kept.mask]
      by_cases hren : rendering s.ppu.mask = true
      · rw [scrollStep, setPpu_ppu, hr, if_pos hren]
        have hsc := scrolledV_congr s.ppu q position hv kept.t
        exact ⟨⟨block.mirroring, block.prgTable, block.chrTable, block.cart, block.params, block.loaded,
            block.started, block.result, block.pending, block.draws⟩, h2.mapper,
          ⟨kept.t, kept.fineX, kept.w, kept.readBuffer, kept.oamAddr, kept.control, kept.mask, kept.oam, kept.ntMem,
            kept.palMem⟩,
          ⟨position.scanline, position.dot, position.frameOdd⟩, by rw [if_pos hren]; exact hsc, vb, ov, hit, hitKept, slots,
          events⟩
      · rw [scrollStep, setPpu_ppu, hr, if_neg hren]
        exact ⟨⟨block.mirroring, block.prgTable, block.chrTable, block.cart, block.params, block.loaded,
            block.started, block.result, block.pending, block.draws⟩, h2.mapper, kept, position,
          by rw [if_neg hren]; exact hv, vb, ov, hit, hitKept, slots, events⟩
    · cases h
  · cases h

theorem lineSteps_ok (s : State) (hs : StorageOk s) : ∃ t, lineSteps s = .ok t := by
  obtain ⟨p, hp⟩ := spritePpu_ok s hs
  have h2 := pixelStep_frame (setPpu p s)
  have hs' : StorageOk (pixelStep (setPpu p s)) := by
    refine ⟨?_, ?_⟩
    · simp only [GeometryOk, h2.block.cart]; exact hs.1
    · simp only [TablesCoherent, h2.block.prgTable, h2.block.chrTable, h2.block.cart, h2.mapper]; exact hs.2
  obtain ⟨q, hq⟩ := backgroundPpu_ok _ hs'
  exact ⟨scrollStep (setPpu q (pixelStep (setPpu p s))), by simp only [lineSteps, hp, hq]⟩

/-! ### Events, hook and advance -/

/-- The status after the event step (R180, R181). -/
def statusAfterEvents (p : Ppu) : Status :=
  if p.scanline = 261 ∧ p.dot = 1 then statusCleared
  else if p.scanline = 241 ∧ p.dot = 1 then statusSetVerticalBlank p.status
  else p.status

/-- The events of the event step (R182, R183). -/
def eventsOfEvents (p : Ppu) : List Event :=
  if p.scanline = 241 ∧ p.dot = 1 ∧ ctlNmiEnable p.control = true then [.nmi]
  else if p.scanline = 240 ∧ p.dot = 0 then [.displayUpdate]
  else []

/-- All the event step does: the status and the trace. -/
theorem eventStep_eq (s : State) :
    eventStep s = { setPpu { s.ppu with status := statusAfterEvents s.ppu } s with
      events := s.events ++ eventsOfEvents s.ppu } := by
  by_cases h1 : s.ppu.scanline = 261 ∧ s.ppu.dot = 1
  · have e1 : statusAfterEvents s.ppu = statusCleared := by simp [statusAfterEvents, h1]
    have e2 : eventsOfEvents s.ppu = [] := by simp [eventsOfEvents, h1]
    rw [e1, e2, List.append_nil]
    simp only [eventStep, if_pos h1]
    rfl
  · by_cases h2 : s.ppu.scanline = 241 ∧ s.ppu.dot = 1
    · have e1 : statusAfterEvents s.ppu = statusSetVerticalBlank s.ppu.status := by simp [statusAfterEvents, h2]
      by_cases h3 : ctlNmiEnable s.ppu.control = true
      · have e2 : eventsOfEvents s.ppu = [.nmi] := by simp [eventsOfEvents, h2, h3]
        rw [e1, e2]
        simp only [eventStep, if_neg h1, if_pos h2, if_pos h3]
        rfl
      · have e2 : eventsOfEvents s.ppu = [] := by simp [eventsOfEvents, h2, h3]
        rw [e1, e2, List.append_nil]
        simp only [eventStep, if_neg h1, if_pos h2, if_neg h3]
        rfl
    · have e1 : statusAfterEvents s.ppu = s.ppu.status := by simp [statusAfterEvents, h1, h2]
      by_cases h3 : s.ppu.scanline = 240 ∧ s.ppu.dot = 0
      · have e2 : eventsOfEvents s.ppu = [.displayUpdate] := by simp [eventsOfEvents, h3]
        rw [e1, e2]
        simp only [eventStep, if_neg h1, if_neg h2, if_pos h3]
        rfl
      · have e2 : eventsOfEvents s.ppu = [] := by
          have : ¬ (s.ppu.scanline = 241 ∧ s.ppu.dot = 1 ∧ ctlNmiEnable s.ppu.control = true) :=
            fun h => h2 ⟨h.1, h.2.1⟩
          simp only [eventsOfEvents, if_neg this, if_neg h3]
        rw [e1, e2, List.append_nil]
        simp only [eventStep, if_neg h1, if_neg h2, if_neg h3]
        rfl

/-- The mapper after its hook (R246): MMC3's counter clocked. -/
def mapperAfterHook : Mapper → Mapper
  | .nrom => .nrom
  | .uxrom sel => .uxrom sel
  | .cnrom sel => .cnrom sel
  | .mmc1 r => .mmc1 r
  | .mmc3 r => .mmc3 (clockIrq r)

/-- The events of the hook (R246, R321). -/
def eventsOfHook : Mapper → List Event
  | .nrom => []
  | .uxrom _ => []
  | .cnrom _ => []
  | .mmc1 _ => []
  | .mmc3 r => if irqFires (clockIrq r) then [.irq] else []

/-- All a hook does: the MMC3 counter and the trace. -/
theorem runHook_eq (s : State) :
    runHook s = { setMapper (mapperAfterHook s.mapper) s with events := s.events ++ eventsOfHook s.mapper } := by
  obtain ⟨ppu, mirroring, mapper, prgTable, chrTable, cart, params, loaded, started, result, events, pending, draws⟩ := s
  cases mapper with
  | nrom => simp [runHook, mapperAfterHook, eventsOfHook, setMapper]
  | uxrom sel => simp [runHook, mapperAfterHook, eventsOfHook, setMapper]
  | cnrom sel => simp [runHook, mapperAfterHook, eventsOfHook, setMapper]
  | mmc1 r => simp [runHook, mapperAfterHook, eventsOfHook, setMapper]
  | mmc3 r =>
    simp only [runHook, mmc3Hook, mapperAfterHook, eventsOfHook]
    split <;> simp [emit, setMapper]

/-- A hook moves no bank, no window size and no mirroring, and keeps the variant (R321). -/
theorem mapperAfterHook_keeps (m : Mapper) (p c : Nat) (v : Bool) :
    prgTableOf (mapperAfterHook m) p = prgTableOf m p ∧ chrTableOf (mapperAfterHook m) c = chrTableOf m c
      ∧ mirroringOf (mapperAfterHook m) v = mirroringOf m v ∧ (mapperAfterHook m).id = m.id
      ∧ shiftCountOk (mapperAfterHook m) = shiftCountOk m := by
  cases m <;> exact ⟨rfl, rfl, rfl, rfl, rfl⟩

/-- Whether the tick at this position runs the hook (R184). -/
abbrev hookDue (p : Ppu) : Prop := renderingLine p.scanline = true ∧ p.dot = 260 ∧ rendering p.mask = true

/-- The hook step where it is due (R184). -/
theorem hookStep_due (s : State) (h : hookDue s.ppu) :
    hookStep s = { setMapper (mapperAfterHook s.mapper) s with
      events := s.events ++ .mapperHook :: eventsOfHook s.mapper } := by
  simp only [hookStep, if_pos h, runHook_eq, emit, setMapper, List.append_assoc, List.singleton_append]

/-- The hook step elsewhere (R184). -/
theorem hookStep_idle (s : State) (h : ¬ hookDue s.ppu) : hookStep s = s := by
  simp only [hookStep, if_neg h]

/-- The advance changes the position only (R162). -/
structure AdvanceFrame (p q : Ppu) : Prop where
  kept : PpuKept p q
  latches : LatchesKept p q
  shifters : ShiftersKept p q
  v : q.v = p.v
  status : q.status = p.status
  sprites : q.sprites = p.sprites
  secondary : q.secondary = p.secondary

theorem advance_frame (p : Ppu) : AdvanceFrame p (advance p) := by
  simp only [advance]
  split
  · split <;> exact ⟨by constructor <;> rfl, by constructor <;> rfl, by constructor <;> rfl, rfl, rfl, rfl, rfl⟩
  · exact ⟨by constructor <;> rfl, by constructor <;> rfl, by constructor <;> rfl, rfl, rfl, rfl, rfl⟩

/-- The advance keeps the position in range (R23). -/
theorem advance_range (p : Ppu) (hl : p.scanline ≤ 261) (hd : p.dot ≤ 340) :
    (advance p).scanline ≤ 261 ∧ (advance p).dot ≤ 340 := by
  simp only [advance]
  split
  · split
    · exact ⟨by simp, by simp⟩
    · exact ⟨by simp only; omega, by simp⟩
  · rename_i h
    exact ⟨hl, by simp only [not_or] at h ⊢; omega⟩

/-! ### The whole tick -/

/-- What a tick can do. -/
structure TickFrame (s t : State) : Prop where
  block : BlockKept s t
  mapper : t.mapper = if hookDue s.ppu then mapperAfterHook s.mapper else s.mapper
  kept : PpuKept s.ppu t.ppu
  scanline : t.ppu.scanline = (advance s.ppu).scanline
  dot : t.ppu.dot = (advance s.ppu).dot
  frameOdd : t.ppu.frameOdd = (advance s.ppu).frameOdd
  v : t.ppu.v = if renderingLine s.ppu.scanline ∧ rendering s.ppu.mask then scrolledV s.ppu else s.ppu.v
  slots : SlotsOk s → SlotsOk t
  events : ∃ c, t.events = s.events
    ++ (if s.ppu.scanline ≤ 239 ∧ 2 ≤ s.ppu.dot ∧ s.ppu.dot ≤ 257 then
          [.displayWrite (s.ppu.dot - 2) s.ppu.scanline c] else [])
    ++ eventsOfEvents s.ppu
    ++ (if hookDue s.ppu then .mapperHook :: eventsOfHook s.mapper else [])

theorem advance_congr (p q : Ppu) (hp : PositionKept p q) (hm : q.mask = p.mask) :
    (advance q).scanline = (advance p).scanline ∧ (advance q).dot = (advance p).dot
      ∧ (advance q).frameOdd = (advance p).frameOdd := by
  have hs : skipsDot q = skipsDot p := by simp only [skipsDot, hp.scanline, hp.dot, hp.frameOdd, hm]
  simp only [advance, hs, hp.scanline, hp.dot, hp.frameOdd]
  split
  · split <;> simp
  · simp

/-- What the events, the hook and the advance do. -/
structure EndFrame (s t : State) : Prop where
  block : BlockKept s t
  mapper : t.mapper = if hookDue s.ppu then mapperAfterHook s.mapper else s.mapper
  kept : PpuKept s.ppu t.ppu
  latches : LatchesKept s.ppu t.ppu
  shifters : ShiftersKept s.ppu t.ppu
  v : t.ppu.v = s.ppu.v
  sprites : t.ppu.sprites = s.ppu.sprites
  secondary : t.ppu.secondary = s.ppu.secondary
  status : t.ppu.status = statusAfterEvents s.ppu
  scanline : t.ppu.scanline = (advance s.ppu).scanline
  dot : t.ppu.dot = (advance s.ppu).dot
  frameOdd : t.ppu.frameOdd = (advance s.ppu).frameOdd
  events : t.events = s.events ++ eventsOfEvents s.ppu
    ++ (if hookDue s.ppu then .mapperHook :: eventsOfHook s.mapper else [])

theorem endOfDot_frame (s : State) : EndFrame s (endOfDot s) := by
  have hp : PositionKept s.ppu { s.ppu with status := statusAfterEvents s.ppu } := ⟨rfl, rfl, rfl⟩
  have hf := advance_frame { s.ppu with status := statusAfterEvents s.ppu }
  have hk : PpuKept s.ppu (advance { s.ppu with status := statusAfterEvents s.ppu }) :=
    ⟨hf.kept.t, hf.kept.fineX, hf.kept.w, hf.kept.readBuffer, hf.kept.oamAddr, hf.kept.control, hf.kept.mask,
        hf.kept.oam, hf.kept.ntMem, hf.kept.palMem⟩
  have hl : LatchesKept s.ppu (advance { s.ppu with status := statusAfterEvents s.ppu }) :=
    ⟨hf.latches.atFeedLow, hf.latches.atFeedHigh, hf.latches.fetchAddr, hf.latches.ntByte, hf.latches.atByte,
        hf.latches.patternLow, hf.latches.patternHigh⟩
  have hs : ShiftersKept s.ppu (advance { s.ppu with status := statusAfterEvents s.ppu }) :=
    ⟨hf.shifters.bgShiftLow, hf.shifters.bgShiftHigh, hf.shifters.atShiftLow, hf.shifters.atShiftHigh⟩
  have ha := advance_congr s.ppu { s.ppu with status := statusAfterEvents s.ppu } hp rfl
  by_cases hd : hookDue s.ppu
  · have e := hookStep_due (eventStep s) (by rw [eventStep_eq]; exact hd)
    rw [eventStep_eq] at e
    rw [endOfDot, eventStep_eq, e]
    exact ⟨⟨rfl, rfl, rfl, rfl, rfl, rfl, rfl, rfl, rfl, rfl⟩, by rw [if_pos hd]; rfl, hk, hl,
      hs, hf.v, hf.sprites, hf.secondary, hf.status, ha.1, ha.2.1, ha.2.2, by rw [if_pos hd]; rfl⟩
  · have e := hookStep_idle (eventStep s) (by rw [eventStep_eq]; exact hd)
    rw [eventStep_eq] at e
    rw [endOfDot, eventStep_eq, e]
    exact ⟨⟨rfl, rfl, rfl, rfl, rfl, rfl, rfl, rfl, rfl, rfl⟩, by rw [if_neg hd]; rfl, hk, hl,
      hs, hf.v, hf.sprites, hf.secondary, hf.status, ha.1, ha.2.1, ha.2.2,
      by rw [if_neg hd, List.append_nil]; rfl⟩

/-- All a tick can do (R160 to R184). -/
theorem tick_frame (s t : State) (h : tick s = .ok t) : TickFrame s t := by
  simp only [tick] at h
  split at h
  · rename_i hline
    cases hu : lineSteps s with
    | error f => rw [hu] at h; cases h
    | ok u =>
      rw [hu] at h
      cases h
      have h1 := lineSteps_frame s u hu
      have h2 := endOfDot_frame u
      have ha := advance_congr s.ppu u.ppu h1.position h1.kept.mask
      have hdue : hookDue u.ppu ↔ hookDue s.ppu := by
        simp only [hookDue, h1.position.scanline, h1.position.dot, h1.kept.mask]
      have hev : eventsOfEvents u.ppu = eventsOfEvents s.ppu := by
        simp only [eventsOfEvents, h1.position.scanline, h1.position.dot, h1.kept.control]
      refine ⟨h1.block.trans h2.block, ?_, h1.kept.trans h2.kept, h2.scanline.trans ha.1, h2.dot.trans ha.2.1,
        h2.frameOdd.trans ha.2.2, ?_, ?_, ?_⟩
      · rw [h2.mapper, h1.mapper]
        simp only [hdue]
      · rw [h2.v, h1.v]
        simp [hline]
      · intro hs
        have := h1.slots hs
        exact ⟨by rw [h2.sprites]; exact this.1, by rw [h2.secondary]; exact this.2⟩
      · obtain ⟨c, hc⟩ := h1.events
        refine ⟨c, ?_⟩
        rw [h2.events, hc, h1.mapper, hev]
        simp only [hdue]
  · rename_i hline
    cases h
    have h2 := endOfDot_frame s
    refine ⟨h2.block, h2.mapper, h2.kept, h2.scanline, h2.dot, h2.frameOdd, ?_, ?_, 0, ?_⟩
    · rw [h2.v, if_neg (by simp [hline])]
    · intro hs
      exact ⟨by rw [h2.sprites]; exact hs.1, by rw [h2.secondary]; exact hs.2⟩
    · rw [h2.events]
      have : ¬ (s.ppu.scanline ≤ 239 ∧ 2 ≤ s.ppu.dot ∧ s.ppu.dot ≤ 257) := by
        simp only [renderingLine, decide_eq_true_eq] at hline
        omega
      rw [if_neg this, List.append_nil]

/-- A tick never faults in a session (R160). -/
theorem tick_ok (s : State) (hs : StorageOk s) : ∃ t, tick s = .ok t := by
  simp only [tick]
  split
  · obtain ⟨u, hu⟩ := lineSteps_ok s hs
    exact ⟨endOfDot u, by rw [hu]; rfl⟩
  · exact ⟨_, rfl⟩

/-! ### The tick of a rendering line, step by step -/

/-- `rendering` in the bits of `mask` (R8). -/
theorem rendering_iff (s : State) : rendering s.ppu.mask = true ↔ RenderingOn s := by
  simp only [rendering, maskBackground, maskSprites, Bool.or_eq_true, RenderingOn]

/-- A rendering line in numbers (R161). -/
theorem renderingLine_iff (s : State) : renderingLine s.ppu.scanline = true ↔ OnRenderingLine s := by
  simp only [renderingLine, decide_eq_true_eq, OnRenderingLine]

/-- A micro-cycle dot in numbers (R165). -/
theorem fetchDot_iff (s : State) : fetchDot s.ppu.dot = true ↔ OnFetchDot s := by
  simp only [fetchDot, decide_eq_true_eq, OnFetchDot]

/-- When the sprite actions run (R201). -/
theorem spritesRun_iff (s : State) : spritesRun s = true ↔ SpriteActionsRun s := by
  simp only [spritesRun, Bool.or_eq_true, rendering_iff, Bool.not_eq_true', SpriteActionsRun]; tauto

/-- What a tick does to the status: the steps of a rendering line leave `st`, then the event step acts on it (R164, R180,
R181). -/
theorem tick_status (s t : State) (h : tick s = .ok t) :
    ∃ st : Status,
      t.ppu.status = (if s.ppu.scanline = 261 ∧ s.ppu.dot = 1 then statusCleared
        else if s.ppu.scanline = 241 ∧ s.ppu.dot = 1 then statusSetVerticalBlank st else st)
      ∧ st.verticalBlank = s.ppu.status.verticalBlank
      ∧ (s.ppu.status.spriteOverflow = true → st.spriteOverflow = true)
      ∧ (s.ppu.status.spriteZeroHit = true → st.spriteZeroHit = true)
      ∧ (¬ (s.ppu.scanline ≤ 239 ∧ 2 ≤ s.ppu.dot ∧ s.ppu.dot ≤ 257) →
        st.spriteZeroHit = s.ppu.status.spriteZeroHit)
      ∧ (¬ OnRenderingLine s → st = s.ppu.status) := by
  simp only [tick] at h
  split at h
  · rename_i hl
    cases hu : lineSteps s with
    | error f => rw [hu] at h; cases h
    | ok u =>
      rw [hu] at h
      cases h
      have f := lineSteps_frame s u hu
      have g := (endOfDot_frame u).status
      refine ⟨u.ppu.status, ?_, f.verticalBlank, f.overflowStays, f.hitStays, f.hitKept,
        fun hn => absurd ((renderingLine_iff s).1 hl) hn⟩
      rw [g, statusAfterEvents, f.position.scanline, f.position.dot]
  · cases h
    exact ⟨s.ppu.status, (endOfDot_frame s).status, rfl, id, id, fun _ => rfl, fun _ => rfl⟩

theorem tick_line (s : State) (hs : StorageOk s) (hl : OnRenderingLine s) :
    ∃ p q, spritePpu s = .ok p ∧ SpriteFrame s.ppu p ∧ PixelFrame (setPpu p s) (pixelStep (setPpu p s))
      ∧ backgroundPpu (pixelStep (setPpu p s)) = .ok q ∧ BackgroundFrame (pixelStep (setPpu p s)).ppu q
      ∧ EndFrame (scrollStep (setPpu q (pixelStep (setPpu p s)))) (endOfDot (scrollStep (setPpu q (pixelStep (setPpu p s)))))
      ∧ exec .tick s = .next (complete (endOfDot (scrollStep (setPpu q (pixelStep (setPpu p s)))))) := by
  have hl' := (renderingLine_iff s).2 hl
  obtain ⟨u, hu⟩ := lineSteps_ok s hs
  have hu' := hu
  simp only [lineSteps] at hu
  split at hu
  · rename_i p hp
    split at hu
    · rename_i q hq
      cases hu
      refine ⟨p, q, hp, spritePpu_frame s p hp, pixelStep_frame _, hq, backgroundPpu_frame _ q hq, endOfDot_frame _, ?_⟩
      simp only [exec, execTick, tick, if_pos hl', hu']
      rfl
    · cases hu
  · cases hu

/-- A PPU-bus read depends on the memories, the tables and the mirroring only (R66). -/
theorem ppuBusRead_congr (s t : State) (a : PpuAddr) (h : BlockKept s t) (hm : t.mapper = s.mapper) (hk : PpuKept s.ppu t.ppu) :
    ppuBusRead t a = ppuBusRead s a := by
  simp only [ppuBusRead, chrRead, romCharacter, ntRead, palRead, h.chrTable, h.cart, h.mirroring, hm, hk.ntMem, hk.palMem]

/-- The scroll step moves `v` only (R176 to R179). -/
theorem scrollStep_ppu (s : State) : ∃ v, (scrollStep s).ppu = { s.ppu with v := v } := by
  simp only [scrollStep]; split
  · exact ⟨_, rfl⟩
  · exact ⟨s.ppu.v, rfl⟩

/-! ### Fetch addresses, latches and shifters in numbers -/

/-- The nametable address (R168). -/
theorem ntAddr_toNat (v : Scroll) : (0x2000#14 ||| ((v &&& 0x0FFF#15).setWidth 14)).toNat = 0x2000 + v.toNat % 0x1000 := by
  have : 0x2000#14 ||| ((v &&& 0x0FFF#15).setWidth 14) = (2#2 ++ v.extractLsb' 0 12 : BitVec 14) := by
    apply BitVec.eq_of_getLsbD_eq; intro i hi
    simp only [BitVec.getLsbD_append, BitVec.getLsbD_extractLsb', BitVec.getLsbD_or, BitVec.getLsbD_setWidth, BitVec.getLsbD_and]
    interval_cases i <;> simp
  rw [this, toNat_append_add]; simp

/-- The attribute address (R170). -/
theorem atAddr_toNat (v : Scroll) : ((0x23C0#15 ||| (v &&& 0x0C00#15) ||| ((v >>> 4) &&& 0x38#15) ||| ((v >>> 2) &&& 0x07#15)).setWidth 14 : PpuAddr).toNat
    = 0x23C0 + v.toNat / 0x400 % 4 * 0x400 + v.toNat / 128 % 8 * 8 + v.toNat / 4 % 8 := by
  have : ((0x23C0#15 ||| (v &&& 0x0C00#15) ||| ((v >>> 4) &&& 0x38#15) ||| ((v >>> 2) &&& 0x07#15)).setWidth 14 : PpuAddr)
     = (2#2 ++ v.extractLsb' 10 2 ++ 15#4 ++ v.extractLsb' 7 3 ++ v.extractLsb' 2 3 : BitVec 14) := by
    apply BitVec.eq_of_getLsbD_eq; intro i hi
    simp only [BitVec.getLsbD_append, BitVec.getLsbD_extractLsb', BitVec.getLsbD_or, BitVec.getLsbD_setWidth, BitVec.getLsbD_and, BitVec.getLsbD_ushiftRight]
    interval_cases i <;> simp
  rw [this]
  simp only [toNat_append_add, BitVec.extractLsb'_toNat, Nat.shiftRight_eq_div_pow, BitVec.toNat_ofNat]
  omega

/-- The pattern address (R172). -/
theorem patAddr_toNat (c b : Byte) (v : Scroll) : (BitVec.ofNat 14 ((ctlBackgroundTable c).toNat * 0x1000 + b.toNat * 16 + (fineY v).toNat)).toNat = c.toNat / 16 % 2 * 0x1000 + b.toNat * 16 + v.toNat / 0x1000 := by
  have h : (ctlBackgroundTable c).toNat = c.toNat / 16 % 2 := by
    have : ∀ c : Byte, (c.getLsbD 4).toNat = c.toNat / 16 % 2 := by decide
    exact this c
  have hf : (fineY v).toNat = v.toNat / 4096 := by
    have := v.isLt
    simp [fineY, Nat.shiftRight_eq_div_pow]; omega
  have := v.isLt; have := b.isLt; have := c.isLt
  rw [h, hf, BitVec.toNat_ofNat]; omega

/-- The attribute quadrant (R171). -/
theorem quadrant_eq (v : Scroll) (b : Byte) : quadrant v b = b >>> (v.toNat / 64 % 2 * 4 + v.toNat / 2 % 2 * 2) := by
  have hx : (coarseX v).getLsbD 1 = decide (v.toNat / 2 % 2 = 1) := by
    simp only [coarseX, BitVec.getLsbD_extractLsb']
    simp only [BitVec.getLsbD, Nat.testBit_eq_decide_div_mod_eq]; simp
  have hy : (coarseY v).getLsbD 1 = decide (v.toNat / 64 % 2 = 1) := by
    simp only [coarseY, BitVec.getLsbD_extractLsb']
    simp only [BitVec.getLsbD, Nat.testBit_eq_decide_div_mod_eq]; simp
  simp only [quadrant, hx, hy, decide_eq_true_eq]
  rcases (by omega : v.toNat / 64 % 2 = 0 ∨ v.toNat / 64 % 2 = 1) with h | h <;>
  rcases (by omega : v.toNat / 2 % 2 = 0 ∨ v.toNat / 2 % 2 = 1) with g | g <;> simp [h, g]

/-- A reloaded pattern shifter (R175). -/
theorem reload_toNat (x : BitVec 16) (y : Byte) : ((x &&& 0xFF00#16) ||| y.setWidth 16).toNat = x.toNat / 0x100 * 0x100 + y.toNat := by
  have : (x &&& 0xFF00#16) ||| y.setWidth 16 = (x.extractLsb' 8 8 ++ y : BitVec 16) := by
    apply BitVec.eq_of_getLsbD_eq; intro i hi
    simp only [BitVec.getLsbD_append, BitVec.getLsbD_extractLsb', BitVec.getLsbD_or, BitVec.getLsbD_setWidth, BitVec.getLsbD_and]
    interval_cases i <;> simp
  have h := x.isLt
  rw [this]; simp only [toNat_append_add, BitVec.extractLsb'_toNat, Nat.shiftRight_eq_div_pow]; omega

/-- A shifted pattern shifter (R175). -/
theorem shiftLeft_one_toNat (x : BitVec 16) : (x <<< 1).toNat = x.toNat * 2 % 0x10000 := by
  simp only [BitVec.toNat_shiftLeft, Nat.shiftLeft_eq]

/-- A shifted attribute shifter (R175). -/
theorem shiftConcat_toNat (x : Byte) (b : Bool) : (x.shiftConcat b).toNat = (x.toNat * 2 + b.toNat) % 0x100 := by
  rw [BitVec.toNat_shiftConcat]; simp [Nat.shiftLeft_eq]

theorem pixelStep_shifters (s : State) : ∃ st : Status, (pixelStep s).ppu =
    if (2 ≤ s.ppu.dot ∧ s.ppu.dot ≤ 257) ∨ (322 ≤ s.ppu.dot ∧ s.ppu.dot ≤ 337) then { shiftRegisters s.ppu with status := st } else s.ppu := by
  simp only [pixelStep]
  split
  · simp only [generatePixel]; split
    · exact ⟨_, rfl⟩
    · exact ⟨_, rfl⟩
  · exact ⟨s.ppu.status, rfl⟩

/-- The reload of the background step (R175). -/
theorem backgroundPpu_reload (s : State) (q : Ppu) (h : backgroundPpu s = .ok q) :
    let reloads := (OnFetchDot s ∧ s.ppu.dot % 8 = 1) ∨ s.ppu.dot = 257
    q.bgShiftLow = (if reloads then (s.ppu.bgShiftLow &&& 0xFF00#16) ||| s.ppu.patternLow.setWidth 16 else s.ppu.bgShiftLow) ∧
    q.bgShiftHigh = (if reloads then (s.ppu.bgShiftHigh &&& 0xFF00#16) ||| s.ppu.patternHigh.setWidth 16 else s.ppu.bgShiftHigh) ∧
    q.atFeedLow = (if reloads then s.ppu.atByte.getLsbD 0 else s.ppu.atFeedLow) ∧
    q.atFeedHigh = (if reloads then s.ppu.atByte.getLsbD 1 else s.ppu.atFeedHigh) := by
  intro reloads
  have rd : ∀ f : Byte → Ppu, fetchInto f s = .ok q → ∃ b, q = f b := by
    intro f h; obtain ⟨b, hb, h⟩ := fetchInto_cases f s q h
    exact ⟨b, h⟩
  have stay : ∀ q : Ppu, ¬ reloads → q.bgShiftLow = s.ppu.bgShiftLow → q.bgShiftHigh = s.ppu.bgShiftHigh → q.atFeedLow = s.ppu.atFeedLow → q.atFeedHigh = s.ppu.atFeedHigh → q.bgShiftLow = (if reloads then (s.ppu.bgShiftLow &&& 0xFF00#16) ||| s.ppu.patternLow.setWidth 16 else s.ppu.bgShiftLow) ∧
    q.bgShiftHigh = (if reloads then (s.ppu.bgShiftHigh &&& 0xFF00#16) ||| s.ppu.patternHigh.setWidth 16 else s.ppu.bgShiftHigh) ∧
    q.atFeedLow = (if reloads then s.ppu.atByte.getLsbD 0 else s.ppu.atFeedLow) ∧
    q.atFeedHigh = (if reloads then s.ppu.atByte.getLsbD 1 else s.ppu.atFeedHigh) := by
    intro q hr a b c d; rw [if_neg hr, if_neg hr, if_neg hr, if_neg hr]; exact ⟨a, b, c, d⟩
  have go : ∀ q : Ppu, reloads → q.bgShiftLow = (s.ppu.bgShiftLow &&& 0xFF00#16) ||| s.ppu.patternLow.setWidth 16 → q.bgShiftHigh = (s.ppu.bgShiftHigh &&& 0xFF00#16) ||| s.ppu.patternHigh.setWidth 16 → q.atFeedLow = s.ppu.atByte.getLsbD 0 → q.atFeedHigh = s.ppu.atByte.getLsbD 1 → q.bgShiftLow = (if reloads then (s.ppu.bgShiftLow &&& 0xFF00#16) ||| s.ppu.patternLow.setWidth 16 else s.ppu.bgShiftLow) ∧
    q.bgShiftHigh = (if reloads then (s.ppu.bgShiftHigh &&& 0xFF00#16) ||| s.ppu.patternHigh.setWidth 16 else s.ppu.bgShiftHigh) ∧
    q.atFeedLow = (if reloads then s.ppu.atByte.getLsbD 0 else s.ppu.atFeedLow) ∧
    q.atFeedHigh = (if reloads then s.ppu.atByte.getLsbD 1 else s.ppu.atFeedHigh) := by
    intro q hr a b c d; rw [if_pos hr, if_pos hr, if_pos hr, if_pos hr]; exact ⟨a, b, c, d⟩
  simp only [backgroundPpu] at h
  have hfd := fetchDot_iff s
  split at h
  · rename_i hf
    have hf' := hfd.1 hf
    have h257 : ¬ s.ppu.dot = 257 := by simp only [OnFetchDot] at hf'; omega
    have nr : ¬ s.ppu.dot % 8 = 1 → ¬ reloads := fun h h' => h'.elim (fun x => h x.2) h257
    simp only [microCycle] at h
    split at h
    · rename_i hk; cases h; exact go _ (.inl ⟨hf', hk⟩) rfl rfl rfl rfl
    · rename_i hk; obtain ⟨b, rfl⟩ := rd _ h; exact stay _ (nr (by omega)) rfl rfl rfl rfl
    · rename_i hk; cases h; exact stay _ (nr (by omega)) rfl rfl rfl rfl
    · rename_i hk; obtain ⟨b, rfl⟩ := rd _ h; exact stay _ (nr (by omega)) rfl rfl rfl rfl
    · rename_i hk; cases h; exact stay _ (nr (by omega)) rfl rfl rfl rfl
    · rename_i hk; obtain ⟨b, rfl⟩ := rd _ h; exact stay _ (nr (by omega)) rfl rfl rfl rfl
    · rename_i hk; cases h; exact stay _ (nr (by omega)) rfl rfl rfl rfl
    · rename_i hk _ _ _ _ _ _; obtain ⟨b, rfl⟩ := rd _ h; exact stay _ (nr (by assumption)) rfl rfl rfl rfl
  · rename_i hf
    have hf' : ¬ OnFetchDot s := fun h => hf (hfd.2 h)
    have nr : ¬ s.ppu.dot = 257 → ¬ reloads := fun h h' => h'.elim (fun x => hf' x.1) h
    split at h
    · cases h; exact stay _ (nr (by omega)) rfl rfl rfl rfl
    · split at h
      · obtain ⟨b, rfl⟩ := rd _ h; exact stay _ (nr (by omega)) rfl rfl rfl rfl
      · split at h
        · rename_i hk; cases h; exact go _ (.inr hk) rfl rfl rfl rfl
        · rename_i hk; split at h
          · obtain ⟨b, rfl⟩ := rd _ h; exact stay _ (nr hk) rfl rfl rfl rfl
          · cases h; exact stay _ (nr hk) rfl rfl rfl rfl

/-! ### Sprites and pixels -/

/-- The loop of R204 selects the first eight entries in range (log entry 14). -/
theorem evaluationLoop_eq (h : Nat) (line : Int) (oam : Memory) : ∀ (left i : Nat) (slots : List SpriteEntry) (n : Nat) (flag : Bool),
    slots.length = 8 → n ≤ 8 →
    let L := (List.range' i left).filter fun i => inRange line h (memRead oam (4 * i))
    let sel := (L.take (8 - n)).map (oamEntry oam)
    evaluationLoop h line (memRead oam) left i slots n flag =
      (slots.take n ++ sel ++ slots.drop (n + sel.length), flag || decide (8 < n + L.length)) := by
  intro left
  induction left with
  | zero =>
    intro i slots n flag hl hn L sel
    have hL : L = [] := rfl
    have hsel : sel = [] := by simp [sel, hL]
    simp [evaluationLoop, hL, hsel, List.take_append_drop]
    omega
  | succ left ih =>
    intro i slots n flag hl hn L sel
    have hLdef : L = if inRange line h (memRead oam (4 * i)) then i :: (List.range' (i+1) left).filter (fun i => inRange line h (memRead oam (4 * i))) else (List.range' (i+1) left).filter (fun i => inRange line h (memRead oam (4 * i))) := by
      simp only [L, List.range'_succ, List.filter_cons]
    simp only [evaluationLoop]
    by_cases hin : inRange line h (memRead oam (4 * i)) = true
    · have hc : 0 ≤ line - ((memRead oam (4 * i)).toNat : Int) ∧ line - ((memRead oam (4 * i)).toNat : Int) < (h : Int) := by
        simpa [inRange] using hin
      rw [if_pos hc]
      rw [if_pos hin] at hLdef
      by_cases hn8 : n < 8
      · rw [if_pos hn8]
        have := ih (i + 1) (slots.set n (oamEntry oam i)) (n + 1) flag (by simpa using hl) (by omega)
        simp only at this
        rw [show ({ id := BitVec.ofNat 7 i, positionY := memRead oam (4 * i), tile := memRead oam (4 * i + 1), attributes := memRead oam (4 * i + 2), positionX := memRead oam (4 * i + 3), dataLow := 0, dataHigh := 0 } : SpriteEntry) = oamEntry oam i from rfl, this]
        have hsel : sel = oamEntry oam i :: (((List.range' (i+1) left).filter (fun i => inRange line h (memRead oam (4 * i)))).take (8 - (n+1))).map (oamEntry oam) := by
          simp only [sel, hLdef]
          rw [show 8 - n = (8 - (n+1)) + 1 by omega]
          simp
        rw [hsel, hLdef]
        generalize (List.range' (i+1) left).filter (fun i => inRange line h (memRead oam (4 * i))) = M
        have ht : (slots.set n (oamEntry oam i)).take (n+1) = slots.take n ++ [oamEntry oam i] := by
          rw [List.take_add_one, List.getElem?_set_self (by omega)]
          simp [List.take_set_of_le]
        rw [ht]
        have hd : ∀ k, (slots.set n (oamEntry oam i)).drop (n + 1 + k) = slots.drop (n + (k + 1)) := by
          intro k
          rw [List.drop_set_of_lt (by omega), show n + 1 + k = n + (k+1) by omega]
        rw [hd]
        simp only [List.append_assoc, List.length_cons, List.cons_append]
        congr 2
        congr 1
        apply propext; omega
      · rw [if_neg hn8]
        have : n = 8 := by omega
        subst this
        have hsel : sel = [] := by simp [sel]
        rw [hsel, hLdef]
        simp [← hl]
    · have hc : ¬ (0 ≤ line - ((memRead oam (4 * i)).toNat : Int) ∧ line - ((memRead oam (4 * i)).toNat : Int) < (h : Int)) := by
        intro h'; exact hin (by simpa [inRange] using h')
      rw [if_neg hc]
      rw [if_neg hin] at hLdef
      have := ih (i + 1) slots n flag hl hn
      simp only at this
      rw [this]
      simp only [sel, hLdef]

/-- The sprite arrays and `sprite_overflow` after a tick are those of the sprite step (R200, R201). -/
theorem tick_sprites (s : State) (hs : StorageOk s) (hl : OnRenderingLine s) :
    ∃ p t, spritePpu s = .ok p ∧ exec .tick s = .next t ∧ t.ppu.sprites = p.sprites ∧ t.ppu.secondary = p.secondary ∧
     t.ppu.status.spriteOverflow = if s.ppu.scanline = 261 ∧ s.ppu.dot = 1 then false else p.status.spriteOverflow := by
  obtain ⟨p1, q, hp, f1, f2, hq, f3, f4, he⟩ := tick_line s hs hl
  obtain ⟨v', hv'⟩ := scrollStep_ppu (setPpu q (pixelStep (setPpu p1 s)))
  have g1 := f4.sprites; have g2 := f4.secondary; have g3 := f4.status
  rw [hv'] at g1 g2 g3
  simp only [setPpu_ppu] at g1 g2 g3
  refine ⟨p1, _, hp, he, ?_, ?_, ?_⟩
  · simp only [complete_ppu, g1, f3.sprites, f2.sprites]; rfl
  · simp only [complete_ppu, g2, f3.secondary, f2.secondary]; rfl
  · simp only [complete_ppu, g3, statusAfterEvents, (f1.position.trans (f2.position.trans f3.position)).scanline, (f1.position.trans (f2.position.trans f3.position)).dot]
    have hn : ¬ (s.ppu.scanline = 241 ∧ s.ppu.dot = 1) := by simp only [OnRenderingLine] at hl; omega
    rw [if_neg hn]
    split
    · rfl
    · rw [f3.status, f2.spriteOverflow]; rfl

/-- What a tick outputs at a visible dot (R210 to R217). -/
theorem tick_pixel (s : State) (hs : StorageOk s) (hl : s.ppu.scanline ≤ 239) (h2 : 2 ≤ s.ppu.dot) (h3 : s.ppu.dot ≤ 257) :
    ∃ t, exec .tick s = .next t ∧ t.events = s.events ++ [.displayWrite (s.ppu.dot - 2) s.ppu.scanline (pixelColour s (pixelIndex s.ppu (s.ppu.dot - 2)))]
     ∧ t.ppu.status.spriteZeroHit = (statusAfterPixel (s.ppu.dot - 2) (backgroundPattern s.ppu (s.ppu.dot - 2)) (zeroOpaque s.ppu (s.ppu.dot - 2)) s.ppu.status).spriteZeroHit := by
  obtain ⟨p1, q, hp, f1, f2, hq, f3, f4, he⟩ := tick_line s hs (.inl hl)
  obtain ⟨v', hv'⟩ := scrollStep_ppu (setPpu q (pixelStep (setPpu p1 s)))
  have hspr : p1.sprites = s.ppu.sprites := by
    simp only [spritePpu] at hp
    rw [if_neg (by omega)] at hp
    split at hp
    · cases hp; split <;> rfl
    · rw [if_neg (by omega)] at hp; cases hp; rfl
  have hev := f2.events
  simp only [setPpu_ppu, setPpu_events, f1.position.scanline, f1.position.dot] at hev
  rw [if_pos ⟨hl, h2, h3⟩] at hev
  have bp : backgroundPattern p1 (s.ppu.dot - 2) = backgroundPattern s.ppu (s.ppu.dot - 2) := by
    simp only [backgroundPattern, rawPattern, f1.kept.mask, f1.kept.fineX, f1.shifters.bgShiftLow, f1.shifters.bgShiftHigh]
  have sp : spritePixel p1 (s.ppu.dot - 2) = spritePixel s.ppu (s.ppu.dot - 2) := by
    simp only [spritePixel, hspr, f1.kept.mask]
  have hpi : pixelIndex p1 (s.ppu.dot - 2) = pixelIndex s.ppu (s.ppu.dot - 2) := by
    simp only [pixelIndex, bp, sp, backgroundIndex, f1.kept.fineX, f1.shifters.atShiftLow, f1.shifters.atShiftHigh]
  have hcol : ∀ k, pixelColour (setPpu p1 s) k = pixelColour s k := by
    intro k; simp only [pixelColour, palRead, setPpu_ppu, f1.kept.palMem, f1.kept.mask]; rfl
  rw [hpi, hcol] at hev
  have g1 := f4.events; have g3 := f4.status
  have pos := f1.position.trans (f2.position.trans f3.position)
  have n1 : eventsOfEvents (scrollStep (setPpu q (pixelStep (setPpu p1 s)))).ppu = [] := by
    rw [hv']
    simp only [eventsOfEvents, setPpu_ppu, pos.scanline, pos.dot]
    rw [if_neg (by omega), if_neg (by omega)]
  have n2 : ¬ hookDue (scrollStep (setPpu q (pixelStep (setPpu p1 s)))).ppu := by
    rw [hv']
    simp only [hookDue, setPpu_ppu, pos.dot]; omega
  rw [if_neg n2, n1, List.append_nil, List.append_nil] at g1
  rw [hv'] at g3
  have hsc : (scrollStep (setPpu q (pixelStep (setPpu p1 s)))).events = (pixelStep (setPpu p1 s)).events := by
    simp only [scrollStep]; split <;> rfl
  rw [hsc, hev] at g1
  refine ⟨_, he, ?_, ?_⟩
  · exact g1
  · simp only [complete_ppu, g3, statusAfterEvents]
    rw [if_neg (by simp only [setPpu_ppu, pos.scanline]; omega), if_neg (by simp only [setPpu_ppu, pos.scanline]; omega)]
    simp only [setPpu_ppu, f3.status]
    have hd1 : p1.dot = s.ppu.dot := f1.position.dot
    have hs1 : p1.scanline = s.ppu.scanline := f1.position.scanline
    have : (pixelStep (setPpu p1 s)).ppu.status = statusAfterPixel (s.ppu.dot - 2) (backgroundPattern p1 (s.ppu.dot - 2)) (zeroOpaque p1 (s.ppu.dot - 2)) p1.status := by
      simp only [pixelStep, setPpu_ppu, hd1]
      rw [if_pos (.inl ⟨h2, h3⟩)]
      simp only [generatePixel, setPpu_ppu, hs1]
      rw [if_pos ⟨hl, by omega⟩]
      rfl
    rw [this, bp, zeroOpaque, sp]
    simp only [statusAfterPixel, f1.spriteZeroHit, zeroOpaque]

/-- When the background shows (R212). -/
theorem bgVisible_iff (m : Byte) (x : Nat) : bgVisible m x = true ↔ (m.getLsbD 3 = true ∧ (8 ≤ x ∨ m.getLsbD 1 = true)) := by
  simp only [bgVisible, maskBackground, maskBackgroundLeft, Bool.and_eq_true, Bool.or_eq_true, decide_eq_true_eq]

/-- When sprites show (R213). -/
theorem spritesVisible_iff (m : Byte) (x : Nat) : spritesVisible m x = true ↔ (m.getLsbD 4 = true ∧ (8 ≤ x ∨ m.getLsbD 2 = true)) := by
  simp only [spritesVisible, maskSprites, maskSpritesLeft, Bool.and_eq_true, Bool.or_eq_true, decide_eq_true_eq]

/-- The background pattern in numbers (R211). -/
theorem backgroundPattern_eq (p : Ppu) (x : Nat) : backgroundPattern p x = if p.mask.getLsbD 3 = true ∧ (8 ≤ x ∨ p.mask.getLsbD 1 = true) then (p.bgShiftHigh.getLsbD (15 - p.fineX.toNat)).toNat * 2 + (p.bgShiftLow.getLsbD (15 - p.fineX.toNat)).toNat else 0 := by
  simp only [backgroundPattern, bgVisible_iff, rawPattern]
  split
  · omega
  · rfl

/-- A bit is at most 1. -/
theorem toNat_bool_le (b : Bool) : b.toNat ≤ 1 := by cases b <;> decide

/-- The palette entry of a stored byte: its low six bits (R216). -/
theorem paletteEntry_eq (b : Byte) : (b.extractLsb' 0 6).toFin = (b.setWidth 6).toFin := by
  have : b.extractLsb' 0 6 = b.setWidth 6 := by apply BitVec.eq_of_toNat_eq; simp
  rw [this]

/-- Greyscale in numbers (R217). -/
theorem grey_eq (c : Argb) : grey c = BitVec.ofNat 32 (c.toNat / 0x1000000 * 0x1000000 + ((c.toNat / 0x10000 % 256 + c.toNat / 0x100 % 256 + c.toNat % 256) / 3) * 0x10101) := by
  apply BitVec.eq_of_toNat_eq
  have := c.isLt
  simp only [grey, toNat_append_add, BitVec.extractLsb'_toNat, Nat.shiftRight_eq_div_pow, BitVec.toNat_ofNat]
  have a1 : c.toNat / 2 ^ 16 % 2 ^ 8 = c.toNat / 0x10000 % 256 := by omega
  have a2 : c.toNat / 2 ^ 8 % 2 ^ 8 = c.toNat / 0x100 % 256 := by omega
  have a3 : c.toNat / 2 ^ 0 % 2 ^ 8 = c.toNat % 256 := by omega
  have a4 : c.toNat / 2 ^ 24 % 2 ^ 8 = c.toNat / 0x1000000 := by omega
  rw [a1, a2, a3, a4]
  have b1 : c.toNat / 0x10000 % 256 < 256 := Nat.mod_lt _ (by omega)
  have b2 : c.toNat / 0x100 % 256 < 256 := Nat.mod_lt _ (by omega)
  have b3 : c.toNat % 256 < 256 := Nat.mod_lt _ (by omega)
  have b4 : c.toNat / 0x1000000 < 256 := by omega
  generalize c.toNat / 0x10000 % 256 = r at *
  generalize c.toNat / 0x100 % 256 = g at *
  generalize c.toNat % 256 = b at *
  generalize c.toNat / 0x1000000 = a at *
  have : (r + g + b) / 3 < 256 := by omega
  generalize (r + g + b) / 3 = m at *
  rw [Nat.mod_eq_of_lt this]
  omega

/-- The pattern value of a slot, in numbers. -/
theorem slotPattern_eq (x : Nat) (e : SpriteEntry) : slotPattern e (x - e.positionX.toNat) = spriteValue e x := by
  simp only [slotPattern, spriteValue]
  rw [Nat.mul_comm]
  rfl

/-- A slot gives no pixel exactly where it shows nothing. -/
theorem slotPixel_eq_none (x : Nat) (e : SpriteEntry) : slotPixel x e = none ↔ ShowsNothing e x := by
  simp only [slotPixel, covers, decide_eq_true_eq, slotPattern_eq, ShowsNothing]
  split
  · rename_i h
    simp only [reduceCtorEq, false_iff]
    rintro (g | g | g | g)
    · exact h.1.1 g
    · omega
    · omega
    · exact h.2 g
  · rename_i h
    simp only [true_iff]
    by_contra hn
    simp only [not_or] at hn
    exact h ⟨⟨hn.1, by omega, by omega⟩, hn.2.2.2⟩

/-- The pixel of a slot that shows something. -/
theorem slotPixel_opaque (x : Nat) (e : SpriteEntry) (h : ¬ ShowsNothing e x) :
    slotPixel x e = some
      { index := 16 + e.attributes.toNat % 4 * 4 + spriteValue e x, behind := attrBehind e.attributes
        zero := decide (e.id = 0#7) } := by
  have ha : (attrPalette e.attributes).toNat = e.attributes.toNat % 4 := by simp [attrPalette]
  simp only [ShowsNothing, not_or] at h
  simp only [slotPixel, covers, decide_eq_true_eq, slotPattern_eq, ha]
  rw [if_pos ⟨⟨h.1, by omega, by omega⟩, h.2.2.2⟩, Nat.mul_comm 4]

/-- A pattern value has two bits. -/
theorem spriteValue_lt (e : SpriteEntry) (x : Nat) : spriteValue e x < 4 := by
  have key : ∀ b c : Bool, b.toNat * 2 + c.toNat < 4 := by decide
  exact key _ _

/-- The colour of a palette index that is no alias, in numbers. -/
theorem pixelColour_eq (s : State) (i : Nat) (h : i < 32) (h' : ¬ (16 ≤ i ∧ i % 4 = 0)) :
    pixelColour s i = shownColour s i := by
  simp only [pixelColour, palRead_eq s i h h', paletteEntry_eq, grey_eq]
  rfl

/-! ### Runs of ticks -/

/-- TICK completes in a session (R160). -/
theorem execTick_ok (s : State) (hs : StorageOk s) : ∃ t, exec .tick s = .next (complete t) ∧ tick s = .ok t := by
  obtain ⟨t, h⟩ := tick_ok s hs
  exact ⟨t, by simp only [exec, execTick, h]; rfl, h⟩

/-- A next state of TICK (R160). -/
theorem execTick_next (s t : State) (h : exec .tick s = .next t) : ∃ u, tick s = .ok u ∧ t = complete u := by
  simp only [exec, execTick] at h
  cases hu : tick s with
  | error f => rw [hu] at h; cases h
  | ok u => rw [hu] at h; cases h; exact ⟨u, rfl, rfl⟩

/-- A run, then one transaction more. -/
theorem execAll_snoc (is : List Instr) (i : Instr) (s t : State) (h : execAll is s = .next t) : execAll (is ++ [i]) s = exec i t := by
  induction is generalizing s with
  | nil => cases h; simp only [List.nil_append, execAll]; cases exec i t <;> rfl
  | cons j is ih =>
    simp only [execAll, List.cons_append] at h ⊢
    cases hj : exec j s with
    | next u => rw [hj] at h; exact ih u h
    | fault f => rw [hj] at h; cases h
    | refused f => rw [hj] at h; cases h

/-- A tick keeps what a session's accesses need. -/
theorem tick_keeps (s t : State) (hs : StorageOk s) (h : tick s = .ok t) : StorageOk t ∧ t.ppu.mask = s.ppu.mask := by
  have f := tick_frame s t h
  refine ⟨⟨?_, ?_⟩, f.kept.mask⟩
  · simp only [GeometryOk, f.block.cart]; exact hs.1
  · have k := mapperAfterHook_keeps s.mapper s.cart.prgBanks (chrBanks s.cart) true
    simp only [TablesCoherent, f.block.prgTable, f.block.chrTable, f.block.cart, f.mapper]
    split
    · rw [k.1, k.2.1]; exact hs.2
    · exact hs.2

end Sys2Proof.Machine
end

