-- ==== Sys2Proof/Laws/Step.lean ====
section
/-! SUPPORT. What a transaction that completes can do, said once: every next state of exec is one of the cases of
Effect. -/

namespace Sys2Proof.Machine

/-- The three memories of the PPU are canonical. -/
def Ppu.memoriesOk (p : Ppu) : Prop := Memory.wf p.oam ∧ Memory.wf p.ntMem ∧ Memory.wf p.palMem

/-- What a port or bus access can change of the PPU: no position, no sprite array, and memories by writes only. -/
structure AccessPpu (p q : Ppu) : Prop where
  position : PositionKept p q
  sprites : q.sprites = p.sprites
  secondary : q.secondary = p.secondary
  memories : Ppu.memoriesOk p → Ppu.memoriesOk q

/-- What an access can change of the cartridge: CHR and PRG RAM by writes only (R34). -/
structure AccessCart (c d : Cartridge) : Prop where
  prgBanks : d.prgBanks = c.prgBanks
  chrRomBanks : d.chrRomBanks = c.chrRomBanks
  ramBanks : d.ramBanks = c.ramBanks
  hdrVertical : d.hdrVertical = c.hdrVertical
  prgRom : d.prgRom = c.prgRom
  chr : Memory.wf c.chr → Memory.wf d.chr
  prgRam : Memory.wf c.prgRam → Memory.wf d.prgRam

/-- What a port, cartridge or bus access can change. -/
structure AccessFrame (s t : State) : Prop where
  ppu : AccessPpu s.ppu t.ppu
  cart : AccessCart s.cart t.cart
  mapper : t.mapper = s.mapper
  mirroring : t.mirroring = s.mirroring
  prgTable : t.prgTable = s.prgTable
  chrTable : t.chrTable = s.chrTable
  params : t.params = s.params
  loaded : t.loaded = s.loaded
  started : t.started = s.started
  events : t.events = s.events
  pending : t.pending = s.pending

theorem AccessPpu.refl (p : Ppu) : AccessPpu p p := ⟨.refl p, rfl, rfl, id⟩

theorem AccessCart.refl (c : Cartridge) : AccessCart c c := ⟨rfl, rfl, rfl, rfl, rfl, id, id⟩

theorem AccessFrame.refl (s : State) : AccessFrame s s := ⟨.refl _, .refl _, rfl, rfl, rfl, rfl, rfl, rfl, rfl, rfl, rfl⟩

/-- An access that changes the PPU only. -/
theorem AccessFrame.ofPpu (s : State) (p : Ppu) (h : AccessPpu s.ppu p) : AccessFrame s (setPpu p s) := ⟨h, .refl _, rfl, rfl, rfl, rfl, rfl, rfl, rfl, rfl, rfl⟩

/-- The output of an access changes nothing else. -/
theorem AccessFrame.output (s t u : State) (h : AccessFrame s t) (e : u = { t with result := u.result, draws := u.draws }) : AccessFrame s u := by
  rw [e]; exact ⟨h.ppu, h.cart, h.mapper, h.mirroring, h.prgTable, h.chrTable, h.params, h.loaded, h.started, h.events, h.pending⟩

/-- The step of `v` after an access (R138). -/
theorem AccessFrame.stepV (s t : State) (h : AccessFrame s t) : AccessFrame s (stepV t) :=
  ⟨⟨⟨h.ppu.position.scanline, h.ppu.position.dot, h.ppu.position.frameOdd⟩, h.ppu.sprites, h.ppu.secondary, h.ppu.memories⟩, h.cart, h.mapper, h.mirroring, h.prgTable, h.chrTable, h.params, h.loaded, h.started, h.events, h.pending⟩

/-- A nametable write (R82). -/
theorem ntWrite_frame (a : PpuAddr) (d : Byte) (s : State) : AccessFrame s (ntWrite a d s) :=
  .ofPpu s _ ⟨(by constructor <;> rfl), rfl, rfl, fun h => ⟨h.1, memWrite_wf _ _ _ h.2.1, h.2.2⟩⟩

/-- A palette write (R84). -/
theorem palWrite_frame (a : PpuAddr) (d : Byte) (s : State) : AccessFrame s (palWrite a d s) :=
  .ofPpu s _ ⟨(by constructor <;> rfl), rfl, rfl, fun h => ⟨h.1, h.2.1, memWrite_wf _ _ _ h.2.2⟩⟩

/-- A CHR write (R243). -/
theorem chrWrite_frame (a : Nat) (d : Byte) (s t : State) (h : chrWrite a d s = .ok t) : AccessFrame s t := by
  rcases chrWrite_cases a d s t h with ⟨b, j, -, -, rfl⟩ | ⟨-, -, rfl⟩
  · exact ⟨.refl _, ⟨rfl, rfl, rfl, rfl, rfl, fun h => memWrite_wf _ _ _ h, id⟩, rfl, rfl, rfl, rfl, rfl, rfl, rfl, rfl, rfl⟩
  · exact .refl _

/-- A RAM write (R248). -/
theorem ramWrite_frame (a : Addr) (d : Byte) (s t : State) (h : ramWrite a d s = .ok t) : AccessFrame s t := by
  rw [ramWrite_cases a d s t h]
  exact ⟨.refl _, ⟨rfl, rfl, rfl, rfl, rfl, id, fun h => memWrite_wf _ _ _ h⟩, rfl, rfl, rfl, rfl, rfl, rfl, rfl, rfl, rfl⟩

/-- A PPU-bus write (R67). -/
theorem ppuBusWrite_frame (a : PpuAddr) (d : Byte) (s t : State) (h : ppuBusWrite a d s = .ok t) : AccessFrame s t := by
  simp only [ppuBusWrite] at h
  split at h
  · exact chrWrite_frame _ _ _ _ h
  · split at h <;> cases h
    · exact ntWrite_frame _ _ _
    · exact palWrite_frame _ _ _

/-- A next state of an access that may raise. -/
theorem settle_next {r : Except Fault State} {t : State} (h : settle r = .next t) : r = .ok t := by
  cases r with
  | ok u => cases h; rfl
  | error f => cases h

/-- A next state of a read that may raise. -/
theorem settleByte_next {r : Except Fault Byte} {s t : State} (h : settleByte r s = .next t) : ∃ b, r = .ok b ∧ t = returnByte b s := by
  cases r with
  | ok b => cases h; exact ⟨b, rfl, rfl⟩
  | error f => cases h

/-- What a mapper row can do (R245, R246). -/
inductive MapperEffect (s : State) : State → Prop
  | stay : MapperEffect s (complete s)
  | bank (m : Mapper) : m.id = s.mapper.id → (shiftCountOk s.mapper = true → shiftCountOk m = true) → MapperEffect s (complete (updateMapper m s))
  | shift (r : Mmc1) (v : BitVec 5) : s.mapper = .mmc1 r → r.shiftCount < 4 →
      MapperEffect s (complete (setMapper (.mmc1 { r with shiftValue := v, shiftCount := r.shiftCount + 1 }) s))

/-- All a transaction that completes can do. -/
inductive Effect (s : State) : Instr → State → Prop
  | access (i : Instr) (t : State) : i ≠ .tick → i ≠ .reset → AccessFrame s t → Effect s i t
  | mapper (i : Instr) (t : State) : i ≠ .tick → i ≠ .reset → MapperEffect s t → Effect s i t
  | hook (r : Mmc3) : s.mapper = .mmc3 r → Effect s .mmc3Hook (complete (mmc3Hook s r))
  | tick (u : State) : tick s = .ok u → Effect s .tick (complete u)
  | reset : Effect s .reset (complete (resetBlock s))

/-- What an MMC1 row does (R291). -/
theorem mmc1_effect (a : Addr) (d : Byte) (s t : State) (h : onMmc1 s (mmc1Write a d s) = .next t) : MapperEffect s t := by
  obtain ⟨r, hr, rfl⟩ := onMmc1_next s t _ h
  rcases mmc1Write_cases a d s r with ⟨-, e⟩ | ⟨-, hc, e⟩ | ⟨-, -, e⟩
  · rw [e]; exact .bank _ (by rw [hr]; rfl) (fun _ => by simp [shiftCountOk])
  · rw [e]; exact .shift r _ hr hc
  · rw [e]; exact .bank _ (by rw [hr]; rfl) (fun _ => by simp [shiftCountOk])

/-- What an MMC3 port does (R311 to R319). -/
theorem mmc3_effect (k : Mmc3 → Mmc3) (s t : State) (h : onMmc3 s (fun r => updateMapper (.mmc3 (k r)) s) = .next t) : MapperEffect s t := by
  obtain ⟨r, hr, rfl⟩ := onMmc3_next s t _ h
  exact .bank _ (by rw [hr]; rfl) (fun _ => rfl)

/-- The read buffer of a PPUDATA read (R139). -/
theorem readBuffer_frame (s : State) (b : Byte) : AccessFrame s (setPpu { s.ppu with readBuffer := b } s) :=
  .ofPpu s _ ⟨(by constructor <;> rfl), rfl, rfl, id⟩

/-- Every next state of exec is an effect of its instruction. -/
theorem exec_effect (i : Instr) (s t : State) (h : exec i s = .next t) : Effect s i t := by
  have acc : ∀ u p, i ≠ .tick → i ≠ .reset → t = u → u = { setPpu p s with result := u.result, draws := u.draws } → AccessPpu s.ppu p → Effect s i t :=
    fun u p h1 h2 ht e hp => .access i t h1 h2 (by rw [ht]; exact .output _ _ _ (.ofPpu s p hp) e)
  have keep : ∀ u, i ≠ .tick → i ≠ .reset → t = u → u = { s with result := u.result, draws := u.draws } → Effect s i t :=
    fun u h1 h2 ht e => .access i t h1 h2 (by rw [ht]; exact .output _ _ _ (.refl s) e)
  cases i <;> simp only [exec] at h
  case ppuCtrlW a d => cases h; exact acc _ _ (by simp) (by simp) rfl rfl ⟨(by constructor <;> rfl), rfl, rfl, id⟩
  case ppuMaskW a d => cases h; exact acc _ _ (by simp) (by simp) rfl rfl ⟨(by constructor <;> rfl), rfl, rfl, id⟩
  case ppuStatusW a d => cases h; exact keep _ (by simp) (by simp) rfl rfl
  case oamAddrW a d => cases h; exact acc _ _ (by simp) (by simp) rfl rfl ⟨(by constructor <;> rfl), rfl, rfl, id⟩
  case oamDataW a d => cases h; exact acc _ _ (by simp) (by simp) rfl rfl ⟨(by constructor <;> rfl), rfl, rfl, fun h => ⟨memWrite_wf _ _ _ h.1, h.2⟩⟩
  case ppuScrollW a d =>
    cases h
    refine acc _ _ (by simp) (by simp) rfl rfl ?_
    simp only [scrollWritten]; split <;> exact ⟨(by constructor <;> rfl), rfl, rfl, id⟩
  case ppuAddrW a d =>
    cases h
    refine acc _ _ (by simp) (by simp) rfl rfl ?_
    simp only [addrWritten]; split <;> exact ⟨(by constructor <;> rfl), rfl, rfl, id⟩
  case ppuDataW a d =>
    simp only [execPpuDataW, writeData] at h
    split at h
    · rename_i u hu
      cases h
      exact .access _ _ (by simp) (by simp) (.output _ _ _ (.stepV _ _ (ppuBusWrite_frame _ _ _ _ hu)) rfl)
    · cases h
  case ppuCtrlR a => cases h; exact keep _ (by simp) (by simp) rfl rfl
  case ppuMaskR a => cases h; exact keep _ (by simp) (by simp) rfl rfl
  case ppuStatusR a => cases h; exact acc _ _ (by simp) (by simp) rfl rfl ⟨(by constructor <;> rfl), rfl, rfl, id⟩
  case oamAddrR a => cases h; exact keep _ (by simp) (by simp) rfl rfl
  case oamDataR a => cases h; exact keep _ (by simp) (by simp) rfl rfl
  case ppuScrollR a => cases h; exact keep _ (by simp) (by simp) rfl rfl
  case ppuAddrR a => cases h; exact keep _ (by simp) (by simp) rfl rfl
  case ppuDataR a =>
    have h' := settle_next h
    simp only [readData] at h'
    split at h'
    · split at h'
      · cases h'; exact .access _ _ (by simp) (by simp) (.output _ _ _ (.stepV _ _ (readBuffer_frame s _)) rfl)
      · cases h'
    · cases h'; exact .access _ _ (by simp) (by simp) (.output _ _ _ (.stepV _ _ (readBuffer_frame s _)) rfl)
  case prgR a => obtain ⟨b, -, rfl⟩ := settleByte_next h; exact keep _ (by simp) (by simp) rfl rfl
  case ramR a =>
    simp only [execRamR] at h
    split at h
    · obtain ⟨b, -, rfl⟩ := settleByte_next h; exact keep _ (by simp) (by simp) rfl rfl
    · cases h; exact keep _ (by simp) (by simp) rfl rfl
  case ramW a d =>
    simp only [execRamW] at h
    split at h
    · have h' := settle_next h
      cases hu : ramWrite a d s with
      | error f => rw [hu] at h'; cases h'
      | ok u => rw [hu] at h'; cases h'; exact .access _ _ (by simp) (by simp) (.output _ _ _ (ramWrite_frame a d s u hu) rfl)
    · cases h; exact keep _ (by simp) (by simp) rfl rfl
  case nromPrgW a d => simp only [execNromPrgW, forVariant, raise] at h; split at h <;> cases h
  case uxromBankW a d => obtain ⟨h1, rfl⟩ := forVariant_next _ _ _ _ h; exact .mapper _ _ (by simp) (by simp) (.bank _ h1.symm (fun _ => rfl))
  case cnromBankW a d => obtain ⟨h1, rfl⟩ := forVariant_next _ _ _ _ h; exact .mapper _ _ (by simp) (by simp) (.bank _ h1.symm (fun _ => rfl))
  case mmc1ControlW a d => exact .mapper _ _ (by simp) (by simp) (mmc1_effect a d s t h)
  case mmc1Chr0W a d => exact .mapper _ _ (by simp) (by simp) (mmc1_effect a d s t h)
  case mmc1Chr1W a d => exact .mapper _ _ (by simp) (by simp) (mmc1_effect a d s t h)
  case mmc1PrgW a d => exact .mapper _ _ (by simp) (by simp) (mmc1_effect a d s t h)
  case mmc3BankSelectW a d => exact .mapper _ _ (by simp) (by simp) (mmc3_effect _ s t h)
  case mmc3BankDataW a d => exact .mapper _ _ (by simp) (by simp) (mmc3_effect _ s t h)
  case mmc3MirroringW a d => exact .mapper _ _ (by simp) (by simp) (mmc3_effect _ s t h)
  case mmc3RamProtectW a d => exact .mapper _ _ (by simp) (by simp) (mmc3_effect _ s t h)
  case mmc3IrqLatchW a d => exact .mapper _ _ (by simp) (by simp) (mmc3_effect _ s t h)
  case mmc3IrqReloadW a d => exact .mapper _ _ (by simp) (by simp) (mmc3_effect _ s t h)
  case mmc3IrqDisableW a d => exact .mapper _ _ (by simp) (by simp) (mmc3_effect _ s t h)
  case mmc3IrqEnableW a d => exact .mapper _ _ (by simp) (by simp) (mmc3_effect _ s t h)
  case chrR a => obtain ⟨b, -, rfl⟩ := settleByte_next h; exact keep _ (by simp) (by simp) rfl rfl
  case chrW a d =>
    have h' := settle_next h
    cases hu : chrWrite a.toNat d s with
    | error f => rw [hu] at h'; cases h'
    | ok u => rw [hu] at h'; cases h'; exact .access _ _ (by simp) (by simp) (.output _ _ _ (chrWrite_frame _ d s u hu) rfl)
  case ntR a => cases h; exact keep _ (by simp) (by simp) rfl rfl
  case ntW a d => cases h; exact .access _ _ (by simp) (by simp) (.output _ _ _ (ntWrite_frame _ d s) rfl)
  case palR a => cases h; exact keep _ (by simp) (by simp) rfl rfl
  case palW a d => cases h; exact .access _ _ (by simp) (by simp) (.output _ _ _ (palWrite_frame _ d s) rfl)
  case tick =>
    simp only [execTick] at h
    cases hu : Machine.tick s with
    | error f => rw [hu] at h; cases h
    | ok u => rw [hu] at h; cases h; exact .tick u hu
  case reset => cases h; exact .reset
  case nromHook => obtain ⟨-, rfl⟩ := forVariant_next _ _ _ _ h; exact .mapper _ _ (by simp) (by simp) .stay
  case uxromHook => obtain ⟨-, rfl⟩ := forVariant_next _ _ _ _ h; exact .mapper _ _ (by simp) (by simp) .stay
  case cnromHook => obtain ⟨-, rfl⟩ := forVariant_next _ _ _ _ h; exact .mapper _ _ (by simp) (by simp) .stay
  case mmc1Hook => obtain ⟨r, -, rfl⟩ := onMmc1_next _ _ _ h; exact .mapper _ _ (by simp) (by simp) .stay
  case mmc3Hook => obtain ⟨r, hr, rfl⟩ := onMmc3_next _ _ _ h; exact .hook r hr

/-- A transaction the fetch runs is the first of the host's stream, decoded (R76). -/
theorem fetch_run (s u : State) (i : Instr) (h : fetch s = .run i u) : ∃ x rest, s.pending = x :: rest ∧ u = { s with pending := rest } ∧ decode x = .ok i := by
  simp only [fetch] at h
  split at h
  · cases h
  · rename_i x rest hp
    simp only [accept] at h
    split at h
    · cases h
    · split at h
      · cases h
      · split at h
        · cases h
        · split at h
          · cases h; exact ⟨x, rest, hp, rfl, by assumption⟩
          · cases h

end Sys2Proof.Machine
end

