-- ==== Sys2Proof/Tests/Slice0.lean ====
section
/-! SUPPORT. The model's own tests: an ill-formed term for each check of WellFormed, a word written out from 30_encoding.md
for every row, worked vectors of 95_test_vectors.md, and for every obligation with hypotheses a state that meets
them. -/

namespace Sys2Proof.Tests

open Sys2Proof.Machine

/-! ### Helpers -/

/-- What `f` sees of the next state. -/
def look {α : Type} (f : State → α) : Host.Outcome State Fault Refusal → Option α
  | .next t => some (f t)
  | .fault _ => none
  | .refused _ => none

/-- The state right after reset with the PPU `p`. -/
def onPpu (p : Ppu) : State := { State.reset with ppu := p }

/-- The position `(l, d, odd)` with `mask`, everything else as after reset. -/
def at3 (l d : Nat) (odd : Bool) (mask : Byte) : State :=
  onPpu { Ppu.zero with scanline := l, dot := d, frameOdd := odd, mask := mask }

/-- A session of variant `id` right after its RESET, with P, N and the header's mirroring bit. -/
def session (id : Byte) (p n : Nat) (vertical : Bool) : State :=
  match selectMapper id Config.params with
  | some m =>
    resetWith m
      { State.reset with cart := { Cartridge.smallest with prgBanks := p, chrRomBanks := n, hdrVertical := vertical } }
  | none => State.reset

/-- `s` with the mapper's registers `m` and the tables that follow from them. -/
def withMapper (m : Mapper) (s : State) : State := recompute (setMapper m s)

/-- MMC1's registers after its default reset. -/
def mmc1Zero : Mmc1 := mmc1AtReset Config.resetMmc1

/-- MMC3's registers after its default reset. -/
def mmc3Zero : Mmc3 := mmc3AtReset Config.resetMmc3

/-- `s` under a CHR-ROM write policy and a RAM-protect policy. -/
def policy (w : ChrRomWrite) (r : RamProtect) (s : State) : State :=
  { s with params := { s.params with chrRomWrite := w, mmc3RamProtect := r } }

/-! ### Ill-formed terms -/

theorem test_wf_port : (Instr.ppuCtrlW 0x2001 0).wf = false ∧ (Instr.ppuDataR 0x4007).wf = false := by decide
theorem test_wf_prg : (Instr.prgR 0x7FFF).wf = false ∧ (Instr.uxromBankW 0x0000 1).wf = false := by decide
theorem test_wf_ram : (Instr.ramR 0x5FFF).wf = false ∧ (Instr.ramW 0x8000 1).wf = false := by decide
theorem test_wf_mmc1 : (Instr.mmc1Chr0W 0xC000 1).wf = false ∧ (Instr.mmc1PrgW 0xDFFF 1).wf = false := by decide
theorem test_wf_mmc3 : (Instr.mmc3BankDataW 0x8000 1).wf = false ∧ (Instr.mmc3IrqEnableW 0xFFFE 1).wf = false := by decide
theorem test_wf_chr : (Instr.chrR 0x2000).wf = false ∧ (Instr.chrW 0x4000 1).wf = false := by decide
theorem test_wf_nt : (Instr.ntR 0x3F00).wf = false ∧ (Instr.ntW 0x1FFF 1).wf = false := by decide
theorem test_wf_pal : (Instr.palR 0x3EFF).wf = false ∧ (Instr.palW 0x4000 1).wf = false := by decide

/-! ### Words of 30_encoding.md R100 to R108, written out bit by bit

Fields: mapper_id 31:24, 0000 23:20, space 19:18, rw 17, 0 16, addr 15:0. -/

theorem test_decode_port_writes :
    decode ⟨0b00000000_0000_00_1_0_0010000000000000, 0x93⟩ = .ok (.ppuCtrlW 0x2000 0x93)
    ∧ decode ⟨0b00000000_0000_00_1_0_0010000000000001, 1⟩ = .ok (.ppuMaskW 0x2001 1)
    ∧ decode ⟨0b00000000_0000_00_1_0_0010000000000010, 2⟩ = .ok (.ppuStatusW 0x2002 2)
    ∧ decode ⟨0b00000000_0000_00_1_0_0010000000000011, 3⟩ = .ok (.oamAddrW 0x2003 3)
    ∧ decode ⟨0b00000000_0000_00_1_0_0010000000000100, 4⟩ = .ok (.oamDataW 0x2004 4)
    ∧ decode ⟨0b00000000_0000_00_1_0_0010000000000101, 5⟩ = .ok (.ppuScrollW 0x2005 5)
    ∧ decode ⟨0b00000000_0000_00_1_0_0011010001010110, 6⟩ = .ok (.ppuAddrW 0x3456 6)
    ∧ decode ⟨0b00000000_0000_00_1_0_0011111111111111, 7⟩ = .ok (.ppuDataW 0x3FFF 7) := by decide

theorem test_decode_port_reads :
    decode ⟨0b00000001_0000_00_0_0_0010000000000000, 0⟩ = .ok (.ppuCtrlR 0x2000)
    ∧ decode ⟨0b00000001_0000_00_0_0_0010000000000001, 0⟩ = .ok (.ppuMaskR 0x2001)
    ∧ decode ⟨0b00000001_0000_00_0_0_0010000000001010, 0⟩ = .ok (.ppuStatusR 0x200A)
    ∧ decode ⟨0b00000001_0000_00_0_0_0010000000000011, 0⟩ = .ok (.oamAddrR 0x2003)
    ∧ decode ⟨0b00000001_0000_00_0_0_0010000000000100, 0⟩ = .ok (.oamDataR 0x2004)
    ∧ decode ⟨0b00000001_0000_00_0_0_0010000000000101, 0⟩ = .ok (.ppuScrollR 0x2005)
    ∧ decode ⟨0b00000001_0000_00_0_0_0010000000000110, 0⟩ = .ok (.ppuAddrR 0x2006)
    ∧ decode ⟨0b00000001_0000_00_0_0_0010000000000111, 0⟩ = .ok (.ppuDataR 0x2007) := by decide

theorem test_decode_cartridge :
    decode ⟨0b00000100_0000_00_0_0_1000000000000000, 0⟩ = .ok (.prgR 0x8000)
    ∧ decode ⟨0b00000000_0000_00_0_0_0110000000000000, 0⟩ = .ok (.ramR 0x6000)
    ∧ decode ⟨0b00000000_0000_00_1_0_0110000000000000, 0xAB⟩ = .ok (.ramW 0x6000 0xAB)
    ∧ decode ⟨0b00000000_0000_00_1_0_1000000000000000, 1⟩ = .ok (.nromPrgW 0x8000 1)
    ∧ decode ⟨0b00000010_0000_00_1_0_1100000100100011, 0xF5⟩ = .ok (.uxromBankW 0xC123 0xF5)
    ∧ decode ⟨0b00000011_0000_00_1_0_1111111111111111, 7⟩ = .ok (.cnromBankW 0xFFFF 7) := by decide

theorem test_decode_mmc1 :
    decode ⟨0b00000001_0000_00_1_0_1001111111111111, 1⟩ = .ok (.mmc1ControlW 0x9FFF 1)
    ∧ decode ⟨0b00000001_0000_00_1_0_1011111111111111, 1⟩ = .ok (.mmc1Chr0W 0xBFFF 1)
    ∧ decode ⟨0b00000001_0000_00_1_0_1100000000000000, 1⟩ = .ok (.mmc1Chr1W 0xC000 1)
    ∧ decode ⟨0b00000001_0000_00_1_0_1111111111111111, 1⟩ = .ok (.mmc1PrgW 0xFFFF 1) := by decide

theorem test_decode_mmc3 :
    decode ⟨0b00000100_0000_00_1_0_1001111111111110, 5⟩ = .ok (.mmc3BankSelectW 0x9FFE 5)
    ∧ decode ⟨0b00000100_0000_00_1_0_1001111111111111, 0x21⟩ = .ok (.mmc3BankDataW 0x9FFF 0x21)
    ∧ decode ⟨0b00000100_0000_00_1_0_1011111111111110, 1⟩ = .ok (.mmc3MirroringW 0xBFFE 1)
    ∧ decode ⟨0b00000100_0000_00_1_0_1010000000000001, 1⟩ = .ok (.mmc3RamProtectW 0xA001 1)
    ∧ decode ⟨0b00000100_0000_00_1_0_1100000000000000, 1⟩ = .ok (.mmc3IrqLatchW 0xC000 1)
    ∧ decode ⟨0b00000100_0000_00_1_0_1101111111111111, 1⟩ = .ok (.mmc3IrqReloadW 0xDFFF 1)
    ∧ decode ⟨0b00000100_0000_00_1_0_1110000000000000, 1⟩ = .ok (.mmc3IrqDisableW 0xE000 1)
    ∧ decode ⟨0b00000100_0000_00_1_0_1111111111111111, 1⟩ = .ok (.mmc3IrqEnableW 0xFFFF 1) := by decide

theorem test_decode_bus :
    decode ⟨0b00000000_0000_01_0_0_0001111111111111, 0⟩ = .ok (.chrR 0x1FFF)
    ∧ decode ⟨0b00000000_0000_01_1_0_0001001001000011, 0xFF⟩ = .ok (.chrW 0x1243 0xFF)
    ∧ decode ⟨0b00000000_0000_01_0_0_0010110001000101, 0⟩ = .ok (.ntR 0x2C45)
    ∧ decode ⟨0b00000000_0000_01_1_0_0011111011111111, 9⟩ = .ok (.ntW 0x3EFF 9)
    ∧ decode ⟨0b00000000_0000_01_0_0_0011111100010000, 0⟩ = .ok (.palR 0x3F10)
    ∧ decode ⟨0b00000000_0000_01_1_0_0011111111111111, 9⟩ = .ok (.palW 0x3FFF 9) := by decide

theorem test_decode_control :
    decode ⟨0b00000000_0000_10_0_0_0000000000000000, 0⟩ = .ok .tick
    ∧ decode ⟨0b00000000_0000_10_0_0_0000000000000010, 0⟩ = .ok .reset
    ∧ decode ⟨0b00000000_0000_10_0_0_0000000000000001, 0⟩ = .ok .nromHook
    ∧ decode ⟨0b00000001_0000_10_0_0_0000000000000001, 0⟩ = .ok .mmc1Hook
    ∧ decode ⟨0b00000010_0000_10_0_0_0000000000000001, 0⟩ = .ok .uxromHook
    ∧ decode ⟨0b00000011_0000_10_0_0_0000000000000001, 0⟩ = .ok .cnromHook
    ∧ decode ⟨0b00000100_0000_10_0_0_0000000000000001, 0⟩ = .ok .mmc3Hook := by decide

/-- 95_test_vectors.md 2.1, the refused words. -/
theorem test_decode_refused :
    decode ⟨0x00080003, 0⟩ = .error (.controlOperation 3) ∧ decode ⟨0x00001000, 0⟩ = .error (.cpuAddress 0x1000)
    ∧ decode ⟨0x00004020, 0⟩ = .error (.cpuAddress 0x4020) ∧ decode ⟨0x00102000, 0⟩ = .error .reservedBits
    ∧ decode ⟨0x000C0000, 0⟩ = .error .reservedSpace ∧ decode ⟨0x00048000, 0⟩ = .error (.ppuAddress 0x8000)
    ∧ decode ⟨0x000A0000, 0⟩ = .error .controlWrite ∧ decode ⟨0x05028000, 0⟩ = .error (.noMapperRow 5) := by decide

theorem test_table_word : decodeTableWord 32 0x04029FFF = some (.mmc3BankDataW 0x9FFF 0) := by decide

/-! ### PPU ports (95_test_vectors.md 2.2) -/

theorem test_ppuctrl :
    look (fun t => (t.ppu.control, t.ppu.t)) (exec (.ppuCtrlW 0x2000 0x93) State.reset) = some (0x93, 0x0C00)
    ∧ look (fun t => t.ppu.t) (exec (.ppuCtrlW 0x2000 0x00) (onPpu { Ppu.zero with t := 0x7FFF })) = some 0x73FF := by
  decide

theorem test_ppumask :
    look (fun t => (t.ppu.mask, rendering t.ppu.mask)) (exec (.ppuMaskW 0x2001 0x1E) State.reset)
      = some (0x1E, true) := by decide

theorem test_ppustatus_write :
    look (fun t => (t.ppu.status.verticalBlank, t.ppu.w)) (exec (.ppuStatusW 0x2002 0x7F)
      (onPpu { Ppu.zero with status := ⟨false, false, true⟩, w := true })) = some (true, true) := by decide

theorem test_oamaddr : look (fun t => t.ppu.oamAddr) (exec (.oamAddrW 0x2003 0x77) State.reset) = some 0x77 := by decide

theorem test_oamdata_write :
    look (fun t => (t.ppu.oam, t.ppu.oamAddr)) (exec (.oamDataW 0x2004 0x20) (onPpu { Ppu.zero with oamAddr := 0xFF }))
      = some ([(255, 0x20)], 0) := by decide

theorem test_ppuscroll_first :
    look (fun t => (t.ppu.fineX, coarseX t.ppu.t, t.ppu.w)) (exec (.ppuScrollW 0x2005 0x7D) State.reset)
      = some (5, 15, true) := by decide

theorem test_ppuscroll_second :
    look (fun t => (fineY t.ppu.t, coarseY t.ppu.t, t.ppu.w)) (exec (.ppuScrollW 0x2005 0x5E)
      (onPpu { Ppu.zero with w := true })) = some (6, 11, false) := by decide

theorem test_ppuaddr_first :
    look (fun t => (t.ppu.t, t.ppu.v, t.ppu.w)) (exec (.ppuAddrW 0x2006 0xFF) (onPpu { Ppu.zero with t := 0x7FFF }))
      = some (0x3FFF, 0, true) := by decide

theorem test_ppuaddr_second :
    look (fun t => (t.ppu.t, t.ppu.v, t.ppu.w)) (exec (.ppuAddrW 0x2006 0x10)
      (onPpu { Ppu.zero with t := 0x3F00, w := true })) = some (0x3F10, 0x3F10, false) := by decide

theorem test_ppudata_write_palette :
    look (fun t => (t.ppu.palMem, t.ppu.v)) (exec (.ppuDataW 0x2007 0x2A) (onPpu { Ppu.zero with v := 0x3F10 }))
      = some ([(0, 0x2A)], 0x3F11) := by decide

/-- `v = 0x4000` reaches PPU address 0, CHR RAM when N = 0. -/
theorem test_ppudata_write_chr :
    look (fun t => (t.cart.chr, t.ppu.v)) (exec (.ppuDataW 0x2007 0x77) (onPpu { Ppu.zero with v := 0x4000 }))
      = some ([(0, 0x77)], 0x4001) := by decide

theorem test_open_reads :
    look (fun t => (t.ppu.control, t.draws)) (exec (.ppuCtrlR 0x2000) (onPpu { Ppu.zero with control := 0x80 }))
      = some (0x80, 1)
    ∧ look (fun t => t.ppu.w) (exec (.ppuScrollR 0x2005) (onPpu { Ppu.zero with w := true })) = some true
    ∧ look (fun t => t.ppu.w) (exec (.ppuAddrR 0x2006) State.reset) = some false
    ∧ look (fun t => t.ppu.mask) (exec (.ppuMaskR 0x2001) State.reset) = some 0
    ∧ look (fun t => t.ppu.oamAddr) (exec (.oamAddrR 0x2003) State.reset) = some 0 := by decide

/-- Status 7:5 = 110 reads as 0b110xxxxx and leaves 010 and `w = 0`. -/
theorem test_ppustatus_read :
    look (fun t => (t.result.map fun b => b.extractLsb' 5 3, t.ppu.status, t.ppu.w)) (exec (.ppuStatusR 0x2002)
      (onPpu { Ppu.zero with status := ⟨false, true, true⟩, w := true }))
      = some (some 0b110#3, ⟨false, true, false⟩, false) := by
  have h : ∀ d : Byte, (statusByte ⟨false, true, true⟩ d).extractLsb' 5 3 = 0b110#3 := by decide
  exact congrArg (fun r => some (some r, (⟨false, true, false⟩ : Status), false)) (h _)

theorem test_oamdata_read :
    look (fun t => (t.result, t.ppu.oamAddr)) (exec (.oamDataR 0x2004)
      (onPpu { Ppu.zero with oamAddr := 3, oam := [(3, 0x80)] })) = some (some 0x80, 3) := by decide

theorem test_ppudata_read_delayed :
    look (fun t => (t.result, t.ppu.readBuffer, t.ppu.v)) (exec (.ppuDataR 0x2007)
      (onPpu { Ppu.zero with readBuffer := 0x11, v := 0x2000, ntMem := [(0, 0x55)] }))
      = some (some 0x11, 0x55, 0x2001) := by decide

theorem test_ppudata_read_palette :
    look (fun t => (t.result, t.ppu.v)) (exec (.ppuDataR 0x2007)
      (onPpu { Ppu.zero with v := 0x7FFF, palMem := [(31, 0x2A)] })) = some (some 0x2A, 0) := by decide

/-! ### Memory maps and the cartridge (95_test_vectors.md 2.3, 2.6) -/

theorem test_ntIndex :
    [Mirroring.horizontal, .vertical, .oneScreenLower, .oneScreenUpper].map (fun m => ntIndex m 0x2FC1)
      = [0x7C1, 0x7C1, 0x3C1, 0x7C1]
    ∧ [Mirroring.horizontal, .vertical, .oneScreenLower, .oneScreenUpper].map (fun m => ntIndex m 0x2400)
      = [0x000, 0x400, 0x000, 0x400]
    ∧ [Mirroring.horizontal, .vertical, .oneScreenLower, .oneScreenUpper].map (fun m => ntIndex m 0x3EFF)
      = [0x6FF, 0x6FF, 0x2FF, 0x6FF] := by decide

theorem test_palIndex :
    [0x3F00#14, 0x3F10, 0x3F11, 0x3F1C, 0x3F1F, 0x3F20, 0x3F3C, 0x3FFF].map palIndex
      = [0x00, 0x00, 0x11, 0x0C, 0x1F, 0x00, 0x0C, 0x1F] := by decide

/-- Palette aliasing in both directions (S7). -/
theorem test_palette :
    look (fun t => t.ppu.palMem) (exec (.palW 0x3F1C 0x2A) State.reset) = some [(12, 0x2A)]
    ∧ look (fun t => t.result) (exec (.palR 0x3F10) (onPpu { Ppu.zero with palMem := [(0, 0x2A)] })) = some (some 0x2A) := by
  decide

theorem test_nametable :
    look (fun t => t.ppu.ntMem) (exec (.ntW 0x2400 0x55) (session 0 1 1 true)) = some [(0x400, 0x55)]
    ∧ look (fun t => t.result) (exec (.ntR 0x2C00) { session 0 1 1 true with
        ppu := { Ppu.zero with ntMem := [(0x400, 0x55)] } }) = some (some 0x55) := by decide

/-- NROM, P = 1: 0xC123 reads `prg_rom[0][0x0123]`; P = 2: 0xFFFC reads `prg_rom[1][0x3FFC]`. -/
theorem test_prg_read :
    look (fun t => t.result) (exec (.prgR 0xC123) { State.reset with
      cart := { Cartridge.smallest with prgRom := [(0x123, 0x42)] } }) = some (some 0x42)
    ∧ look (fun t => t.result) (exec (.prgR 0xFFFC) { session 0 2 0 false with
      cart := { Cartridge.smallest with prgBanks := 2, prgRom := [(0x7FFC, 0x42)] } }) = some (some 0x42) := by decide

theorem test_ram :
    look (fun t => t.cart.prgRam) (exec (.ramW 0x6005 0xAB) State.reset) = some [(5, 0xAB)]
    ∧ look (fun t => t.result) (exec (.ramR 0x6005) { State.reset with
      cart := { Cartridge.smallest with prgRam := [(5, 0xAB)] } }) = some (some 0xAB) := by decide

/-- 95_test_vectors.md 2.9, the rows of R323. -/
theorem test_ram_protect :
    look (fun t => t.cart.prgRam) (exec (.ramW 0x6000 0x12)
      (policy .store .enforced (withMapper (.mmc3 { mmc3Zero with ramProtect := 0x80 }) (session 4 2 1 false))))
      = some [(0, 0x12)]
    ∧ look (fun t => t.cart.prgRam) (exec (.ramW 0x6000 0x34)
      (policy .store .enforced (withMapper (.mmc3 { mmc3Zero with ramProtect := 0xC0 }) (session 4 2 1 false))))
      = some []
    ∧ look (fun t => t.draws) (exec (.ramR 0x6000) (policy .store .enforced (session 4 2 1 false))) = some 1 := by decide

/-- MMC1 CHR mode 1, `chr_table[1] = (2, 0x1000)`: PPU 0x1ABC reads `chr[2][0x1ABC]`. -/
theorem test_chr_read :
    look (fun t => t.result) (exec (.chrR 0x1ABC)
      { withMapper (.mmc1 { mmc1Zero with control := 0x10, chrBank1 := 5 }) (session 1 8 4 false) with
        cart := { Cartridge.smallest with prgBanks := 8, chrRomBanks := 4, chr := [(2 * 0x2000 + 0x1ABC, 0x42)] } })
      = some (some 0x42) := by decide

/-- NROM, N = 1, under each P_CHR_ROM_WRITE. -/
theorem test_chr_write :
    look (fun t => t.cart.chr) (exec (.chrW 0x0000 0x55) (policy .store .ignored (session 0 1 1 false))) = some [(0, 0x55)]
    ∧ look (fun t => t.cart.chr) (exec (.chrW 0x0000 0x55) (policy .ignore .ignored (session 0 1 1 false))) = some []
    ∧ look (fun t => t.cart.chr) (exec (.chrW 0x0000 0x55) (policy .fault .ignored (session 0 1 1 false))) = none := by
  decide

theorem test_header :
    parseHeader [0x4E, 0x45, 0x53, 0x1A, 0x08, 0x02, 0x12, 0x00, 0x01]
      = { prgBanks := 8, chrRomBanks := 2, vertical := false, trainer := false, ramBanks := 2, mapperId := 1 }
    ∧ (parseHeader [0x4E, 0x45, 0x53, 0x1A, 0x02, 0x00, 0x01, 0x10]).mapperId = 16 := by decide

theorem test_load_malformed :
    checkImage (some ([0x4E, 0x45, 0x53, 0x1A] ++ List.replicate 12 0)) = .error .malformedCartridge
    ∧ checkImage (some ([0x4E, 0x45, 0x53, 0x00, 1] ++ List.replicate 11 0)) = .error .malformedCartridge
    ∧ checkImage none = .error .cartridgeNotFound := by decide

/-- S6: a failed load leaves `loaded() = false` and no bank, whatever was loaded before. -/
theorem test_failed_load_clears :
    (loadCartridge (some ([0x4E, 0x45, 0x53, 0x00, 1] ++ List.replicate 11 0)) State.reset).1.loaded = false
    ∧ (loadCartridge none State.reset).1.cart.prgBanks = 0 := by decide

/-! ### Mappers (95_test_vectors.md 2.7 to 2.9) -/

theorem test_nrom_write :
    look (fun t => t.result) (exec (.nromPrgW 0x8000 0x01) State.reset) = none
    ∧ (∃ f, exec (.nromPrgW 0x8000 0x01) State.reset = .fault f ∧ f.code = 2) := ⟨by decide, _, rfl, by decide⟩

theorem test_silent_hooks :
    look (fun t => (t.mapper, t.events)) (exec .nromHook State.reset) = some (.nrom, [])
    ∧ look (fun t => (t.mapper, t.events)) (exec .uxromHook (session 2 4 0 false)) = some (.uxrom 0, [])
    ∧ look (fun t => (t.mapper, t.events)) (exec .cnromHook (session 3 2 4 false)) = some (.cnrom 0, [])
    ∧ look (fun t => (t.mapper, t.events)) (exec .mmc1Hook (session 1 8 2 false)) = some (.mmc1 mmc1Zero, []) := by decide

/-- P = 8: D = 0xF5 selects 5, D = 0x0B selects 11, the table bank 3. -/
theorem test_uxrom :
    look (fun t => (t.mapper, t.prgTable)) (exec (.uxromBankW 0xC123 0xF5) (session 2 8 0 false))
      = some (.uxrom 5, [⟨5, 0⟩, ⟨7, 0⟩])
    ∧ look (fun t => (t.mapper, t.prgTable)) (exec (.uxromBankW 0x8000 0x0B) (session 2 8 0 false))
      = some (.uxrom 11, [⟨3, 0⟩, ⟨7, 0⟩]) := by decide

/-- C = 4: D = 7 selects 3; C = 2: D = 3 is bank 1. -/
theorem test_cnrom :
    look (fun t => (t.mapper, t.chrTable)) (exec (.cnromBankW 0x8000 0x07) (session 3 2 4 false))
      = some (.cnrom 3, [⟨3, 0⟩])
    ∧ look (fun t => t.chrTable) (exec (.cnromBankW 0x8000 0x03) (session 3 2 2 false)) = some [⟨1, 0⟩] := by decide

/-- The first bit of `MMC1W $E000, 0x15`. -/
theorem test_mmc1_shift :
    look (fun t => t.mapper) (exec (.mmc1PrgW 0xE000 0x01) (session 1 8 2 false))
      = some (.mmc1 { mmc1Zero with shiftValue := 0x10, shiftCount := 1 }) := by decide

/-- The fifth bit of 0x15: the shift register holds 0x0A. -/
theorem test_mmc1_commit :
    look (fun t => (t.mapper, t.prgTable)) (exec (.mmc1PrgW 0xE000 0x01)
      (withMapper (.mmc1 { mmc1Zero with shiftValue := 0x0A, shiftCount := 4 }) (session 1 8 2 false)))
      = some (.mmc1 { mmc1Zero with prgBank := 5 }, [⟨5, 0⟩, ⟨7, 0⟩])
    ∧ look (fun t => t.mapper) (exec (.mmc1Chr0W 0xA000 0x01)
      (withMapper (.mmc1 { mmc1Zero with shiftValue := 0x0A, shiftCount := 4 }) (session 1 8 2 false)))
      = some (.mmc1 { mmc1Zero with chrBank0 := 0x15 })
    ∧ look (fun t => t.mapper) (exec (.mmc1Chr1W 0xC000 0x00)
      (withMapper (.mmc1 { mmc1Zero with shiftValue := 0x0E, shiftCount := 4 }) (session 1 8 2 false)))
      = some (.mmc1 { mmc1Zero with chrBank1 := 7 }) := by decide

/-- Program P2: the commit of 0x0B into `control`, and the reset bit. -/
theorem test_mmc1_control :
    look (fun t => (t.mapper, t.prgTable, t.mirroring)) (exec (.mmc1ControlW 0x8000 0x00)
      (withMapper (.mmc1 { mmc1Zero with shiftValue := 0x16, shiftCount := 4, prgBank := 5 }) (session 1 8 2 false)))
      = some (.mmc1 { mmc1Zero with control := 0x0B, prgBank := 5 }, [⟨0, 0⟩, ⟨5, 0⟩], .horizontal)
    ∧ look (fun t => t.mapper) (exec (.mmc1ControlW 0x8000 0x80)
      (withMapper (.mmc1 { mmc1Zero with shiftValue := 0x14, shiftCount := 3, control := 0x02 }) (session 1 8 2 false)))
      = some (.mmc1 { mmc1Zero with control := 0x0E }) := by decide

/-- P = 8, `prg_bank = 5` in modes 3, 2, 0; C = 2 in CHR modes 1 and 0. -/
theorem test_mmc1_tables :
    mmc1PrgTable { mmc1Zero with prgBank := 5 } 8 = [⟨5, 0⟩, ⟨7, 0⟩]
    ∧ mmc1PrgTable { mmc1Zero with control := 0x08, prgBank := 5 } 8 = [⟨0, 0⟩, ⟨5, 0⟩]
    ∧ mmc1PrgTable { mmc1Zero with control := 0x00, prgBank := 5 } 8 = [⟨4, 0⟩, ⟨5, 0⟩]
    ∧ mmc1ChrTable { mmc1Zero with control := 0x10, chrBank0 := 1, chrBank1 := 6 } 2 = [⟨0, 0x1000⟩, ⟨1, 0⟩]
    ∧ mmc1ChrTable { mmc1Zero with chrBank0 := 3 } 2 = [⟨1, 0⟩, ⟨1, 0x1000⟩] := by decide

theorem test_mmc3_bank_ports :
    look (fun t => t.mapper) (exec (.mmc3BankSelectW 0x8000 0x46) (session 4 2 1 false))
      = some (.mmc3 { mmc3Zero with bankSelect := 0x46 })
    ∧ look (fun t => t.mapper) (exec (.mmc3BankDataW 0x9FFF 0x21)
      (withMapper (.mmc3 { mmc3Zero with bankSelect := 3 }) (session 4 2 1 false)))
      = some (.mmc3 { mmc3Zero with bankSelect := 3, bankData := { Config.bankDataZero with r3 := 0x21 } }) := by decide

theorem test_mmc3_ports :
    look (fun t => t.mirroring) (exec (.mmc3MirroringW 0xA000 0x01) (session 4 2 1 false)) = some .horizontal
    ∧ look (fun t => t.mirroring) (exec (.mmc3MirroringW 0xA000 0xFE) (session 4 2 1 false)) = some .vertical
    ∧ look (fun t => t.mapper) (exec (.mmc3RamProtectW 0xA001 0xC0) (session 4 2 1 false))
      = some (.mmc3 { mmc3Zero with ramProtect := 0xC0 })
    ∧ look (fun t => t.mapper) (exec (.mmc3IrqLatchW 0xC000 0x02) (session 4 2 1 false))
      = some (.mmc3 { mmc3Zero with irqPeriod := 2 }) := by decide

theorem test_mmc3_irq_ports :
    look (fun t => t.mapper) (exec (.mmc3IrqReloadW 0xC001 0x00)
      (withMapper (.mmc3 { mmc3Zero with irqCounter := 9 }) (session 4 2 1 false))) = some (.mmc3 mmc3Zero)
    ∧ look (fun t => t.mapper) (exec (.mmc3IrqDisableW 0xE000 0x00)
      (withMapper (.mmc3 { mmc3Zero with irqEnabled := true }) (session 4 2 1 false))) = some (.mmc3 mmc3Zero)
    ∧ look (fun t => t.mapper) (exec (.mmc3IrqEnableW 0xE001 0x00) (session 4 2 1 false))
      = some (.mmc3 { mmc3Zero with irqEnabled := true }) := by decide

/-- Counter 1, period 7, enabled: the hook leaves 0 and an `irq`; counter 0 reloads. -/
theorem test_mmc3_hook :
    look (fun t => (t.mapper, t.events)) (exec .mmc3Hook
      (withMapper (.mmc3 { mmc3Zero with irqCounter := 1, irqPeriod := 7, irqEnabled := true }) (session 4 2 1 false)))
      = some (.mmc3 { mmc3Zero with irqCounter := 0, irqPeriod := 7, irqEnabled := true }, [.irq])
    ∧ look (fun t => (t.mapper, t.events)) (exec .mmc3Hook
      (withMapper (.mmc3 { mmc3Zero with irqPeriod := 2, irqEnabled := true }) (session 4 2 1 false)))
      = some (.mmc3 { mmc3Zero with irqCounter := 2, irqPeriod := 2, irqEnabled := true }, []) := by decide

/-- P = 4, R6 = 2, R7 = 5: units 2, 5, 6, 7 and 6, 5, 2, 7. -/
theorem test_mmc3_prg_table :
    let b := { Config.bankDataZero with r6 := 2, r7 := 5 }
    mmc3PrgTable { mmc3Zero with bankData := b } 4 = [⟨1, 0⟩, ⟨2, 0x2000⟩, ⟨3, 0⟩, ⟨3, 0x2000⟩]
    ∧ mmc3PrgTable { mmc3Zero with bankSelect := 0x40, bankData := b } 4
      = [⟨3, 0⟩, ⟨2, 0x2000⟩, ⟨1, 0⟩, ⟨3, 0x2000⟩] := by decide

/-- S3: C = 8, R0..R5 = 0x11, 0x20, 4, 5, 6, 7. -/
theorem test_mmc3_chr_table :
    let b := { Config.bankDataZero with r0 := 0x11, r1 := 0x20, r2 := 4, r3 := 5, r4 := 6, r5 := 7 }
    let pairs : List Window := [⟨2, 0⟩, ⟨2, 0x400⟩, ⟨4, 0⟩, ⟨4, 0x400⟩]
    let singles : List Window := [⟨0, 0x1000⟩, ⟨0, 0x1400⟩, ⟨0, 0x1800⟩, ⟨0, 0x1C00⟩]
    mmc3ChrTable { mmc3Zero with bankData := b } 8 = pairs ++ singles
    ∧ mmc3ChrTable { mmc3Zero with bankSelect := 0x80, bankData := b } 8 = singles ++ pairs := by decide

/-! ### Tick (95_test_vectors.md 2.4, 2.5) -/

/-- What `f` sees of the state after a TICK. -/
def ticked {α : Type} (f : State → α) (s : State) : Option α := look f (exec .tick s)

/-- The position after a TICK. -/
def position (s : State) : Option (Nat × Nat × Bool) :=
  ticked (fun t => (t.ppu.scanline, t.ppu.dot, t.ppu.frameOdd)) s

theorem test_tick_position :
    position (at3 0 0 false 0) = some (0, 1, false) ∧ position (at3 5 340 true 0) = some (6, 0, true)
    ∧ position (at3 261 340 false 0) = some (0, 0, true) ∧ position (at3 261 339 true 8) = some (0, 0, false)
    ∧ position (at3 261 339 true 0) = some (261, 340, true)
    ∧ position (at3 261 339 false 8) = some (261, 340, false) := by decide

theorem test_tick_events :
    ticked (fun t => t.events) (at3 240 0 false 0) = some [.displayUpdate]
    ∧ ticked (fun t => (t.events, t.ppu.status.verticalBlank)) (onPpu { Ppu.zero with
        scanline := 241, dot := 1, control := 0x80 }) = some ([.nmi], true)
    ∧ ticked (fun t => t.ppu.status) (onPpu { Ppu.zero with
        scanline := 261, dot := 1, mask := 8, status := ⟨true, true, true⟩ }) = some ⟨false, false, false⟩
    ∧ ticked (fun t => t.events) (at3 261 260 false 8) = some [.mapperHook]
    ∧ ticked (fun t => t.events) (at3 240 260 false 0x18) = some [] := by decide

theorem test_scroll :
    [0x001F#15, 0x041F, 0x0405].map incrementCoarseX = [0x0400, 0x0000, 0x0406]
    ∧ [0x2000#15, 0x73A0, 0x7BA0, 0x73E0].map incrementY = [0x3000, 0x0800, 0x0000, 0x0000]
    ∧ copyHorizontal 0x2BFF 0x0405 = 0x2FE5 ∧ copyVertical 0x041F 0x73A0 = 0x77BF := by decide

theorem test_fetch_addresses :
    (ntAddrStep { Ppu.zero with v := 0x0C45 }).fetchAddr = 0x2C45
    ∧ (atAddrStep { Ppu.zero with v := 0x0C45 }).fetchAddr = 0x2FC1
    ∧ (atAddrStep { Ppu.zero with v := 0x03BF }).fetchAddr = 0x23FF
    ∧ quadrant 0x0022 0b11100100 = 0b00111001 ∧ quadrant 0x0042 0b11100100 = 0b00000011
    ∧ (patAddrStep { Ppu.zero with control := 0x10, ntByte := 0x24, v := 0x3000 }).fetchAddr = 0x1243
    ∧ (patHighAddrStep { Ppu.zero with fetchAddr := 0x1243 }).fetchAddr = 0x124B := by decide

/-- `oam[0..3] = 10, 1, 0, 20` and every other Y 0xF0: lines 12 and 10 select entry 0, line 18 only 8x16. -/
theorem test_range :
    inRange 12 8 10 = true ∧ inRange 10 8 10 = true ∧ inRange 18 8 10 = false ∧ inRange 18 16 10 = true
    ∧ inRange (-1) 8 0 = false ∧ spriteLine 261 = -1 := by decide

/-- Every Y = 0: eight entries are selected on line 0, and the ninth sets `sprite_overflow`. -/
theorem test_evaluation :
    ticked (fun t => (t.ppu.secondary.map fun e => e.id.toNat, t.ppu.status.spriteOverflow)) (at3 0 257 false 0x18)
      = some ([0, 1, 2, 3, 4, 5, 6, 7], true) := by decide

theorem test_sprite_address :
    let e := { SpriteEntry.zero with tile := 0x42 }
    let f := { SpriteEntry.zero with tile := 0x43, attributes := 0x80 }
    spriteAddr 0x08 e 3 = 0x1423 ∧ spriteAddr 0x00 e (spriteRow 8 3 { e with attributes := 0x80 }) = 0x0424
    ∧ spriteAddr 0x20 f 9 = 0x1431 ∧ spriteAddr 0x20 f (spriteRow 16 0 f) = 0x1437 ∧ spriteAddr 0x20 e 2 = 0x0422 := by
  decide

theorem test_background_pixel :
    backgroundIndex { Ppu.zero with mask := 0x0A, bgShiftHigh := 0x8000, atShiftLow := 0x80 } 0 = 0x06
    ∧ backgroundIndex { Ppu.zero with mask := 0x0A, fineX := 3, bgShiftLow := 0x1000 } 0 = 0x01
    ∧ bgVisible 0x08 7 = false ∧ bgVisible 0x08 8 = true ∧ bgVisible 0x0A 0 = true := by decide

theorem test_sprite_pixel :
    let e := { SpriteEntry.zero with positionX := 4, dataLow := 0xFF, attributes := 2 }
    let f := { e with attributes := 0x42, dataLow := 0x80 }
    (slotPixel 4 e).map (fun q => q.index) = some 0x19 ∧ (slotPixel 11 e).map (fun q => q.index) = some 0x19
    ∧ slotPixel 3 e = none ∧ slotPixel 12 e = none ∧ (slotPixel 11 f).map (fun q => q.index) = some 0x19
    ∧ slotPixel 4 f = none := by decide

theorem test_priority_and_hit :
    priorityIndex 1 5 (some ⟨0x19, true, true⟩) = 5 ∧ priorityIndex 1 5 (some ⟨0x19, false, true⟩) = 0x19
    ∧ priorityIndex 0 0 none = 0 ∧ (statusAfterPixel 255 1 true statusCleared).spriteZeroHit = false
    ∧ (statusAfterPixel 0 1 true statusCleared).spriteZeroHit = true := by decide

theorem test_grey :
    [0xFF0000FC#32, 0xFF102030, 0x80FFFFFF, 0xFF010000].map grey
      = [0xFF545454, 0xFF202020, 0x80FFFFFF, 0xFF000000] := by decide

/-! ### Reset and sessions (95_test_vectors.md 2.10) -/

/-- MMC1: `control = 0x0C`, `prg_table = [(0, 0), (P - 1, 0)]`, OneScreenLower; NROM: the header's mirroring. -/
theorem test_reset_mappers :
    look (fun t => (t.mapper, t.prgTable, t.mirroring)) (exec .reset (session 1 8 2 false))
      = some (.mmc1 mmc1Zero, [⟨0, 0⟩, ⟨7, 0⟩], .oneScreenLower)
    ∧ look (fun t => (t.prgTable, t.mirroring)) (exec .reset (session 4 2 1 false))
      = some ([⟨0, 0⟩, ⟨0, 0⟩, ⟨1, 0⟩, ⟨1, 0x2000⟩], .vertical)
    ∧ look (fun t => t.mirroring) (exec .reset (session 0 1 1 true)) = some .vertical := by decide

/-- RAM survives RESET; the PPU does not. -/
theorem test_reset_keeps_ram :
    look (fun t => (t.cart.prgRam, t.ppu)) (exec .reset { at3 100 7 true 0x18 with
      cart := { Cartridge.smallest with prgRam := [(0, 0xAB)] } }) = some ([(0, 0xAB)], Ppu.zero) := by decide

/-- The word placed for the next step is what the step runs, in a session of its own MAPPER_ID. -/
theorem test_placed_word :
    look (fun t => (t.ppu.dot, t.pending)) (step (State.reset.withFetchWord 32 0x00080000)) = some (1, [])
    ∧ look (fun t => t.mapper) (step (State.reset.withFetchWord 32 0x04028000)) = some (.mmc3 mmc3Zero) := by decide

/-! ### Witnesses: states and operands that meet the hypotheses of the obligations -/

/-- A running session with one transaction pending. -/
def withPending (w : Word) (d : Byte) (s : State) : State := { s with pending := [⟨w, d⟩] }

/-- The PPU after reset with `v`, in a session with N CHR ROM banks under a CHR-ROM write policy. -/
def dataState (v : Scroll) (n : Nat) (w : ChrRomWrite) : State :=
  policy w .ignored { session 0 1 n false with ppu := { Ppu.zero with v := v } }

theorem witness_DecodeOfEncode :
    (Instr.ppuAddrW 0x3FFE 0xFF).wf = true ∧ (Instr.prgR 0x8000).wf = true ∧ (Instr.ntR 0x3EFF).wf = true
    ∧ (Instr.mmc3IrqEnableW 0xFFFF 0).wf = true := by decide

theorem witness_EncodeOfDecode : decode ⟨0x0102FFFF, 0x01⟩ = .ok (.mmc1PrgW 0xFFFF 0x01) := by decide

theorem witness_DecodeFollowsTable :
    decode ⟨0x00043F10, 0⟩ = .ok (.palR 0x3F10) ∧ decode ⟨0x000C0000, 0⟩ = .error .reservedSpace := by decide

/-- One word for each clause of the reserved words, at the edge of its range. -/
theorem witness_ReservedWordsRefused :
    (0x00102000#32).extractLsb' 20 4 ≠ 0 ∧ (0x00012000#32).getLsbD 16 = true ∧ wordSpace 0x000C0000 = 3
    ∧ (wordSpace 0x00001FFF = 0 ∧ (wordAddr 0x00001FFF).toNat < 0x2000)
    ∧ (wordSpace 0x00004000 = 0 ∧ 0x4000 ≤ (wordAddr 0x00004000).toNat ∧ (wordAddr 0x00004000).toNat < 0x6000)
    ∧ (wordSpace 0x00044000 = 1 ∧ 0x4000 ≤ (wordAddr 0x00044000).toNat)
    ∧ (wordSpace 0x000A0000 = 2 ∧ wordWrite 0x000A0000 = true)
    ∧ (wordSpace 0x00080003 = 2 ∧ 3 ≤ (wordAddr 0x00080003).toNat) := by decide

theorem witness_StepRunsDecoded :
    ((withPending 0x00022000 0x93 State.reset).loaded = true ∧ wordMapper 0x00022000 = State.reset.mapper.id
      ∧ decode ⟨0x00022000, 0x93⟩ = .ok (.ppuCtrlW 0x2000 0x93) ∧ (withPending 0x00022000 0x93 State.reset).started = true)
    ∧ decode ⟨0x00080002, 0⟩ = .ok .reset := by decide

theorem witness_StepOtherwise :
    State.reset.pending = []
    ∧ ({ withPending 0x00080000 0 State.reset with loaded := false } : State).loaded = false
    ∧ wordMapper 0x01080001 ≠ (session 4 2 1 false).mapper.id
    ∧ decode ⟨0x00080003, 0⟩ = .error (.controlOperation 3)
    ∧ (decode ⟨0x00002002, 0⟩ = .ok (.ppuStatusR 0x2002) ∧ Instr.ppuStatusR 0x2002 ≠ .reset
      ∧ ({ withPending 0x00002002 0 State.reset with started := false } : State).started = false) := by decide

/-- A session of every variant, with both bits of the header. -/
theorem witness_ResetEffect :
    State.reset.mapper = .nrom ∧ (session 2 4 0 true).mapper = .uxrom 0 ∧ (session 3 2 4 false).mapper = .cnrom 0
    ∧ (session 1 8 2 false).mapper = .mmc1 mmc1Zero ∧ (session 4 2 1 false).mapper = .mmc3 mmc3Zero := by decide

/-- An image that loads (P = 1, N = 0, RAMC 1), one of MAPPER_ID 5, and one too short. -/
theorem witness_LoadRules :
    let head (m : Byte) : List Byte := [0x4E, 0x45, 0x53, 0x1A, 1, 0, m, 0, 0, 0, 0, 0, 0, 0, 0, 0]
    let good := head 0x40 ++ List.replicate 16384 0
    let five := head 0x50 ++ List.replicate 16384 0
    (16 ≤ good.length ∧ good.take 4 = [0x4E, 0x45, 0x53, 0x1A] ∧ (good.getD 4 0).toNat = 1
      ∧ 16 + 0 + 16384 * 1 + 8192 * 0 ≤ good.length ∧ (good.getD 6 0).getLsbD 2 = false ∧ (good.getD 5 0).toNat = 0
      ∧ (good.getD 7 0).toNat / 16 * 16 + (good.getD 6 0).toNat / 16 ≤ 4)
    ∧ (16 ≤ five.length ∧ five.take 4 = [0x4E, 0x45, 0x53, 0x1A] ∧ (five.getD 4 0).toNat = 1
      ∧ 16 + 0 + 16384 * 1 + 8192 * 0 ≤ five.length ∧ (five.getD 6 0).getLsbD 2 = false ∧ (five.getD 5 0).toNat = 0
      ∧ 4 < (five.getD 7 0).toNat / 16 * 16 + (five.getD 6 0).toNat / 16)
    ∧ ([] : List Byte).length < 16 ∧ 0 < 8192 ∧ 8191 < 8192 * 1 := by
  refine ⟨⟨?_, rfl, rfl, ?_, rfl, rfl, (by decide : 4 ≤ 4)⟩, ⟨?_, rfl, rfl, ?_, rfl, rfl, (by decide : 4 < 5)⟩, by decide⟩
  all_goals rw [List.length_append, List.length_replicate]; decide

theorem witness_OamdataWrite : Memory.wf State.reset.ppu.oam := by decide

theorem witness_PpuscrollWrite : State.reset.ppu.w = false ∧ (onPpu { Ppu.zero with w := true }).ppu.w = true := by decide

theorem witness_PpuaddrWrite : State.reset.ppu.w = false ∧ (onPpu { Ppu.zero with w := true }).ppu.w = true := by decide

/-- Each region at its edges, and CHR ROM under each policy. -/
theorem witness_PpudataWrite :
    (∀ v : Scroll, StorageOk (dataState v 0 .fault) ∧ MemoriesCanonical (dataState v 0 .fault))
    ∧ (∀ w, StorageOk (dataState 0x1FFF 1 w) ∧ MemoriesCanonical (dataState 0x1FFF 1 w)
        ∧ (dataState 0x1FFF 1 w).params.chrRomWrite = w ∧ (dataState 0x1FFF 1 w).cart.chrRomBanks ≠ 0)
    ∧ (dataState 0x1FFF 0 .fault).cart.chrRomBanks = 0
    ∧ ((0x1FFF#15).setWidth 14).toNat ≤ 0x1FFF ∧ 0x2000 ≤ ((0x2000#15).setWidth 14).toNat
    ∧ ((0x3EFF#15).setWidth 14).toNat ≤ 0x3EFF ∧ 0x3F00 ≤ ((0x3F00#15).setWidth 14).toNat := by
  refine ⟨fun v => ⟨?_, ?_⟩, fun w => ⟨?_, ?_, rfl, Nat.one_ne_zero⟩, by decide⟩
  · exact (by decide : StorageOk (dataState 0 0 .fault))
  · exact (by decide : MemoriesCanonical (dataState 0 0 .fault))
  · exact (by decide : StorageOk (dataState 0x1FFF 1 .fault))
  · exact (by decide : MemoriesCanonical (dataState 0x1FFF 1 .fault))

theorem witness_OpenBusReads :
    Instr.ppuAddrR 0x2006 ∈ [Instr.ppuCtrlR 0x2006, .ppuMaskR 0x2006, .oamAddrR 0x2006, .ppuScrollR 0x2006, .ppuAddrR 0x2006] := by
  decide

/-- Each region at its edges. -/
theorem witness_PpudataRead :
    (∀ v : Scroll, StorageOk (dataState v 0 .store)) ∧ ((0x1FFF#15).setWidth 14).toNat ≤ 0x1FFF
    ∧ 0x2000 ≤ ((0x2000#15).setWidth 14).toNat ∧ ((0x3EFF#15).setWidth 14).toNat ≤ 0x3EFF
    ∧ 0x3F00 ≤ ((0x3F00#15).setWidth 14).toNat ∧ 0x3F00 ≤ ((0x7FFF#15).setWidth 14).toNat :=
  ⟨fun _ => (by decide : StorageOk (dataState 0 0 .store)), by decide⟩

theorem witness_PortDispatch :
    (0x2000 ≤ (0x2000#16).toNat ∧ (0x2000#16).toNat < 0x4000)
    ∧ (0x2000 ≤ (0x3FFF#16).toNat ∧ (0x3FFF#16).toNat < 0x4000) ∧ 8 ≤ 8 := by decide

/-- A session of every variant. -/
def sessions : List State :=
  [session 0 2 1 false, session 1 8 2 false, session 2 4 0 false, session 3 2 4 false, session 4 2 1 false]

theorem witness_PrgRead :
    (∀ s ∈ sessions, StorageOk s) ∧ 0x8000 ≤ (0x8000#16).toNat ∧ 0x8000 ≤ (0xFFFF#16).toNat := by decide

theorem witness_ChrRead :
    (∀ s ∈ sessions, StorageOk s) ∧ (0x0000#16).toNat ≤ 0x1FFF ∧ (0x1FFF#16).toNat ≤ 0x1FFF := by decide

theorem witness_ChrWrite :
    (∀ w ∈ [ChrRomWrite.store, .ignore, .fault],
      StorageOk (dataState 0 1 w) ∧ Memory.wf (dataState 0 1 w).cart.chr ∧ (dataState 0 1 w).cart.chrRomBanks ≠ 0
        ∧ (dataState 0 1 w).params.chrRomWrite = w)
    ∧ (StorageOk (dataState 0 0 .fault) ∧ Memory.wf (dataState 0 0 .fault).cart.chr
      ∧ (dataState 0 0 .fault).cart.chrRomBanks = 0)
    ∧ (0x1FFF#16).toNat ≤ 0x1FFF := by decide

/-- MMC3 under Enforced with a value of the RAM-protect register. -/
def gated (p : Byte) : State :=
  policy .store .enforced (withMapper (.mmc3 { mmc3Zero with ramProtect := p }) (session 4 2 1 false))

/-- The window at its edges, no gate on NROM, and each gate value: closed, open, read-only. -/
theorem witness_RamAccess :
    (ramAddr 0x6000 = true ∧ ramAddr 0x7FFF = true)
    ∧ (∀ s ∈ [State.reset, gated 0x00, gated 0x80, gated 0xC0], GeometryOk s ∧ Memory.wf s.cart.prgRam)
    ∧ (¬ ∃ r, State.reset.mapper = .mmc3 r)
    ∧ (∀ p ∈ [0x00#8, 0x80, 0xC0], ∃ r, (gated p).mapper = .mmc3 r
      ∧ (gated p).params.mmc3RamProtect = .enforced ∧ r.ramProtect = p) := by
  refine ⟨by decide, by decide, (by rintro ⟨r, h⟩; cases h), ?_⟩
  intro p _
  exact ⟨{ mmc3Zero with ramProtect := p }, rfl, rfl, rfl⟩

theorem witness_NametableAccess :
    Memory.wf State.reset.ppu.ntMem ∧ 0x2000 ≤ (0x2000#16).toNat ∧ (0x3EFF#16).toNat ≤ 0x3EFF := by decide

/-- An address, its repetition 32 bytes on, and its alias. -/
theorem witness_PaletteAccess :
    Memory.wf State.reset.ppu.palMem ∧ 0x3F00 ≤ (0x3F00#16).toNat ∧ (0x3FFF#16).toNat ≤ 0x3FFF
    ∧ (0x3F20#16).toNat % 32 = (0x3F00#16).toNat % 32
    ∧ (0x3F10#16).toNat % 32 % 4 = 0 ∧ (0x3F00#16).toNat % 16 = (0x3F10#16).toNat % 16 := by decide

theorem witness_NromPrgWriteFaults : State.reset.mapper = .nrom := by decide

theorem witness_SilentHooks :
    State.reset.mapper = .nrom ∧ (session 2 4 0 false).mapper = .uxrom 0 ∧ (session 3 2 4 false).mapper = .cnrom 0
    ∧ (session 1 8 2 false).mapper = .mmc1 mmc1Zero := by decide

theorem witness_OtherVariantRowRefused :
    (session 4 2 1 false).mapper.id ≠ 0 ∧ (session 4 2 1 false).mapper.id ≠ 1 ∧ (session 4 2 1 false).mapper.id ≠ 2
    ∧ (session 4 2 1 false).mapper.id ≠ 3 ∧ State.reset.mapper.id ≠ 4 := by decide

theorem witness_UxromBankWrite :
    (session 2 4 0 false).mapper = .uxrom 0 ∧ GeometryOk (session 2 4 0 false) := by decide

theorem witness_CnromBankWrite : (session 3 2 4 false).mapper = .cnrom 0 := by decide

theorem witness_Mmc1ResetBitWrite :
    (session 1 8 2 false).mapper = .mmc1 mmc1Zero ∧ (0x80#8).getLsbD 7 = true
    ∧ Instr.mmc1PrgW 0xE000 0x80 ∈ [Instr.mmc1ControlW 0xE000 0x80, .mmc1Chr0W 0xE000 0x80, .mmc1Chr1W 0xE000 0x80,
      .mmc1PrgW 0xE000 0x80] := by decide

/-- `shift_count` 0, 3 and 4, and an address of each register's range. -/
theorem witness_Mmc1SerialWrite :
    (∀ k ∈ [0, 3, 4], (withMapper (.mmc1 { mmc1Zero with shiftCount := k }) (session 1 8 2 false)).mapper
      = .mmc1 { mmc1Zero with shiftCount := k })
    ∧ (0x7F#8).getLsbD 7 = false ∧ mmc1Zero.shiftCount < 4 ∧ 3 < 4 ∧ 4 ≤ ({ mmc1Zero with shiftCount := 4 } : Mmc1).shiftCount
    ∧ (Instr.mmc1ControlW 0x9FFF 0x7F).wf = true ∧ (Instr.mmc1Chr0W 0xA000 0x7F).wf = true
    ∧ (Instr.mmc1Chr1W 0xDFFF 0x7F).wf = true ∧ (Instr.mmc1PrgW 0xE000 0x7F).wf = true := by decide

/-- Five writes to 0xE000 (S2: V = 0x15), and a fifth write to each other register's range. -/
theorem witness_Mmc1FiveWriteLoad :
    (session 1 8 2 false).mapper = .mmc1 mmc1Zero ∧ mmc1Zero.shiftCount = 0
    ∧ (∀ k, k < 4 → Instr.mmc1PrgW 0xE000 (bitByte 0x15 k) ∈ mmc1Rows 0xE000 (bitByte 0x15 k)
      ∧ (Instr.mmc1PrgW 0xE000 (bitByte 0x15 k)).wf = true)
    ∧ (Instr.mmc1PrgW 0xE000 0).wf = true
    ∧ (Instr.mmc1ControlW 0x8000 0).wf = true ∧ (Instr.mmc1Chr0W 0xBFFF 0).wf = true
    ∧ (Instr.mmc1Chr1W 0xC000 0).wf = true := by decide

/-- 95_test_vectors.md S2: five writes of 0x15 to 0xE000 give `prg_bank = 5`. -/
theorem test_mmc1_five_writes :
    look (fun t => match t.mapper with | .mmc1 r => some (r.prgBank, r.shiftCount) | _ => none)
      (execAll ((List.range 5).map fun k => .mmc1PrgW 0xE000 (bitByte 0x15 k)) (session 1 8 2 false))
      = some (some (5, 0)) := by decide

theorem witness_Mmc1Tables :
    (session 1 8 2 false).mapper = .mmc1 mmc1Zero ∧ StorageOk (session 1 8 2 false)
    ∧ MirroringCoherent (session 1 8 2 false) := by decide

theorem witness_Mmc3BankPorts : (session 4 2 1 false).mapper = .mmc3 mmc3Zero := by decide

theorem witness_Mmc3OtherPorts : (session 4 2 1 true).mapper = .mmc3 mmc3Zero := by decide

theorem witness_Mmc3SelectThenData : (session 4 4 8 false).mapper = .mmc3 mmc3Zero := by decide

theorem witness_Mmc3HookClock :
    (withMapper (.mmc3 { mmc3Zero with irqCounter := 1, irqEnabled := true }) (session 4 2 1 false)).mapper
      = .mmc3 { mmc3Zero with irqCounter := 1, irqEnabled := true } := by decide

theorem witness_Mmc3IrqPeriod :
    let r : Mmc3 := { mmc3Zero with irqPeriod := 255, irqEnabled := true }
    (withMapper (.mmc3 r) (session 4 2 1 false)).mapper = .mmc3 r ∧ r.irqCounter = 0 ∧ r.irqEnabled = true
      ∧ 255 ≤ r.irqPeriod.toNat := by decide

theorem witness_Mmc3Tables :
    (session 4 2 1 true).mapper = .mmc3 mmc3Zero ∧ StorageOk (session 4 2 1 true)
    ∧ MirroringCoherent (session 4 2 1 true) := by decide

/-- In the middle of a line, at its end, at the end of a frame, and at the skipped dot. -/
theorem witness_TickAdvance :
    ∀ s ∈ [at3 0 0 false 0, at3 260 340 false 0, at3 261 340 true 0x18, at3 261 339 true 0x18, at3 261 339 false 0x18],
      StorageOk s ∧ PositionOk s := by decide

theorem witness_TickFrame :
    (∃ t, exec .tick (at3 0 257 false 0x18) = .next t) ∧ (∃ t, exec .tick (at3 240 0 false 0) = .next t)
    ∧ ¬ OnRenderingLine (at3 240 0 false 0) ∧ ¬ OnRenderingLine (at3 260 0 false 0) :=
  ⟨⟨_, rfl⟩, ⟨_, rfl⟩, by decide, by decide⟩

/-- The two positions that move flags, one that does not, and the edges of the dots that output no pixel. -/
theorem witness_TickStatus :
    (∀ s ∈ [at3 261 1 false 0, at3 241 1 false 0, at3 241 2 false 0], StorageOk s)
    ∧ ∀ s ∈ [at3 0 1 false 0x1E, at3 239 258 false 0x1E, at3 0 322 false 0x1E, at3 261 2 false 0x1E, at3 261 322 false 0x1E],
      StorageOk s ∧ ¬ (s.ppu.scanline = 261 ∧ s.ppu.dot = 1)
        ∧ ¬ (s.ppu.scanline ≤ 239 ∧ 2 ≤ s.ppu.dot ∧ s.ppu.dot ≤ 257) := by decide

/-- The hook runs on NROM and on MMC3, at lines 0, 239 and 261. -/
theorem witness_TickEvents :
    (∀ s ∈ [at3 0 2 false 0, at3 239 257 false 0, at3 240 0 false 0, at3 241 1 false 0, at3 239 258 false 0], StorageOk s)
    ∧ (∀ s ∈ [at3 0 260 false 8, at3 239 260 false 0x10, at3 261 260 false 0x18],
      StorageOk s ∧ OnRenderingLine s ∧ RenderingOn s)
    ∧ StorageOk { session 4 2 1 false with ppu := { Ppu.zero with dot := 260, mask := 8 } }
    ∧ (0x80#8).getLsbD 7 = true := by decide

/-- Each scroll update at the edges of its dots. -/
theorem witness_TickScroll :
    (∀ d ∈ [8, 248, 328, 336], OnRenderingLine (at3 0 d false 8) ∧ RenderingOn (at3 0 d false 8)
      ∧ OnFetchDot (at3 0 d false 8) ∧ d % 8 = 0 ∧ StorageOk (at3 0 d false 8))
    ∧ (∀ d ∈ [256, 257], OnRenderingLine (at3 261 d false 8) ∧ RenderingOn (at3 261 d false 8)
      ∧ StorageOk (at3 261 d false 8))
    ∧ (∀ d ∈ [280, 304], OnRenderingLine (at3 261 d false 0x10) ∧ RenderingOn (at3 261 d false 0x10)
      ∧ StorageOk (at3 261 d false 0x10))
    ∧ (StorageOk (at3 0 8 false 0) ∧ ¬ RenderingOn (at3 0 8 false 0)) := by decide

theorem witness_TickFetch :
    ∀ d ∈ [0, 1, 2, 7, 255, 256, 321, 322, 337, 338, 339, 340],
      StorageOk (at3 239 d false 0) ∧ OnRenderingLine (at3 239 d false 0) := by decide

theorem witness_TickShift :
    ∀ d ∈ [1, 2, 9, 257, 258, 321, 322, 337, 338],
      StorageOk (at3 261 d false 0) ∧ OnRenderingLine (at3 261 d false 0) := by decide

theorem witness_SpriteStepSchedule :
    ∀ d ∈ [1, 2, 257, 321], StorageOk (at3 0 d false 0x10) ∧ OnRenderingLine (at3 0 d false 0x10)
      ∧ SpriteActionsRun (at3 0 d false 0x10) := by
  intro d _
  exact ⟨(by decide : StorageOk (at3 0 0 false 0x10)), Or.inl (Nat.zero_le 239), Or.inr (by decide : RenderingOn (at3 0 0 false 0x10))⟩

theorem witness_SpriteEvaluation :
    ∀ l ∈ [0, 239, 261], StorageOk (at3 l 257 false 8) ∧ SlotsOk (at3 l 257 false 8)
      ∧ OnRenderingLine (at3 l 257 false 8) ∧ (at3 l 257 false 8).ppu.dot = 257
      ∧ RenderingOn (at3 l 257 false 8) := by decide

/-- The load with an empty slot and a sprite in the secondary buffer. -/
theorem witness_SpriteLoad :
    let s := onPpu { Ppu.zero with scanline := 239, dot := 321, mask := 0x10, secondary := [SpriteEntry.zero, emptyEntry] }
    StorageOk s ∧ OnRenderingLine s ∧ s.ppu.dot = 321 ∧ RenderingOn s ∧ s.ppu.secondary[1]? = some emptyEntry
      ∧ emptyEntry.id = 64 ∧ SpriteEntry.zero.id ≠ 64 := by decide

/-- Sprites off in any column, sprites on but hidden in column 7, and sprites shown in column 8 over an empty slot, slots
that miss on either side, and a transparent one. -/
theorem witness_BackgroundPixel :
    (∀ d ∈ [2, 257], StorageOk (at3 0 d false 8) ∧ (at3 0 d false 8).ppu.mask.getLsbD 4 = false)
    ∧ (StorageOk (at3 239 9 false 0x18) ∧ (at3 239 9 false 0x18).ppu.dot - 2 < 8
      ∧ (at3 239 9 false 0x18).ppu.mask.getLsbD 2 = false)
    ∧ (let s := onPpu { Ppu.zero with scanline := 1, dot := 10, mask := 0x1E, sprites :=
        [emptyEntry, { SpriteEntry.zero with positionX := 9, dataLow := 0xFF },
          { SpriteEntry.zero with positionX := 0, dataLow := 0xFF }, { SpriteEntry.zero with positionX := 4, dataLow := 0xF7 }] }
      StorageOk s ∧ s.ppu.dot - 2 = 8 ∧ s.ppu.mask.getLsbD 4 = true ∧ ∀ e ∈ s.ppu.sprites, ShowsNothing e 8) := by decide

/-- A slot behind an empty and a transparent one, over column 11 of 4..11, the last it covers, with greyscale off and
on. -/
theorem witness_SpritePixelWins :
    ∀ m ∈ [0x1E#8, 0x1F#8],
      let e := { SpriteEntry.zero with positionX := 4, dataLow := 0xFF }
      let clear := { SpriteEntry.zero with positionX := 4, dataLow := 0xFE }
      let s := onPpu { Ppu.zero with scanline := 239, dot := 13, mask := m, sprites := [emptyEntry, clear] ++ e :: [] }
      StorageOk s ∧ s.ppu.scanline ≤ 239 ∧ 2 ≤ s.ppu.dot ∧ s.ppu.dot ≤ 257
        ∧ (∀ q ∈ [emptyEntry, clear], ShowsNothing q 11) ∧ ¬ ShowsNothing e 11
        ∧ s.ppu.mask.getLsbD 4 = true ∧ s.ppu.mask.getLsbD 2 = true := by decide

/-- An even frame, and an odd one with rendering on. -/
theorem witness_FrameLength :
    ∀ s ∈ [at3 0 0 false 0, at3 0 0 true 8], StorageOk s ∧ s.ppu.scanline = 0 ∧ s.ppu.dot = 0 := by decide

theorem witness_StepKeepsInv :
    Inv (withPending 0x00080000 0 State.reset) ∧ ∃ t, step (withPending 0x00080000 0 State.reset) = .next t :=
  ⟨by decide, _, rfl⟩

theorem witness_FaultsOnlyWhereStated :
    (StorageOk State.reset ∧ (Instr.nromPrgW 0x8000 1).wf = true
      ∧ exec (.nromPrgW 0x8000 1) State.reset = .fault (.unsupportedMapperAddress 0x8000))
    ∧ (StorageOk (dataState 0x1FFF 1 .fault) ∧ (Instr.chrW 0x1FFF 1).wf = true
      ∧ (∃ f, exec (.chrW 0x1FFF 1) (dataState 0x1FFF 1 .fault) = .fault f)
      ∧ (Instr.ppuDataW 0x2007 1).wf = true ∧ ∃ f, exec (.ppuDataW 0x2007 1) (dataState 0x1FFF 1 .fault) = .fault f) :=
  ⟨⟨by decide, by decide, rfl⟩, by decide, by decide, ⟨_, rfl⟩, by decide, _, rfl⟩

theorem witness_SessionKept :
    (∃ t, exec .reset State.reset = .next t) ∧ ∃ t, exec (.ppuMaskW 0x2001 8) State.reset = .next t := ⟨⟨_, rfl⟩, _, rfl⟩

/-- A tick that emits `nmi`, and a hook that emits `irq`. -/
theorem witness_EventsOnlyWhereStated :
    ticked (fun t => t.events) (onPpu { Ppu.zero with scanline := 241, dot := 1, control := 0x80 }) = some [.nmi]
    ∧ look (fun t => t.events) (exec .mmc3Hook
      (withMapper (.mmc3 { mmc3Zero with irqEnabled := true }) (session 4 2 1 false))) = some [.irq] := by decide

/-- Each region at its edges. -/
theorem witness_PpuBusReadByte :
    StorageOk State.reset ∧ (0x1FFF#16).toNat ≤ 0x1FFF ∧ 0x2000 ≤ (0x2000#16).toNat ∧ (0x3EFF#16).toNat ≤ 0x3EFF
    ∧ 0x3F00 ≤ (0x3F00#16).toNat ∧ (0x3FFF#16).toNat ≤ 0x3FFF := by decide

end Sys2Proof.Tests
end

/-! What every transaction keeps of the session (R5, R23, R34, R240), read off the cases of Effect. -/

namespace Sys2Proof.Machine

/-- What no transaction changes: PRG ROM, the geometry, the parameters, the variant, the load and the host's stream. -/
structure SessionFrame (s t : State) : Prop where
  cart : AccessCart s.cart t.cart
  params : t.params = s.params
  mapperId : t.mapper.id = s.mapper.id
  loaded : t.loaded = s.loaded
  pending : t.pending = s.pending

theorem AccessFrame.session {s t : State} (h : AccessFrame s t) : SessionFrame s t :=
  ⟨h.cart, h.params, congrArg Mapper.id h.mapper, h.loaded, h.pending⟩

/-- A mapper row keeps the variant, for it writes that variant's registers only (R240). -/
theorem MapperEffect.session {s t : State} (h : MapperEffect s t) : SessionFrame s t := by
  cases h with
  | stay => exact ⟨.refl _, rfl, rfl, rfl, rfl⟩
  | bank m hid _ => exact ⟨.refl _, rfl, hid, rfl, rfl⟩
  | shift r v hr _ => exact ⟨.refl _, rfl, by rw [hr]; rfl, rfl, rfl⟩

theorem MapperEffect.ppu {s t : State} (h : MapperEffect s t) : t.ppu = s.ppu := by
  cases h <;> rfl

/-- The MMC3 hook clocks a counter of MMC3 and appends to the trace (R321). -/
theorem mmc3Hook_session {s : State} {r : Mmc3} (hr : s.mapper = .mmc3 r) :
    SessionFrame s (complete (mmc3Hook s r)) := by
  rw [mmc3Hook_eq]
  exact ⟨.refl _, rfl, by rw [hr]; rfl, rfl, rfl⟩

theorem mmc3Hook_ppu (s : State) (r : Mmc3) : (mmc3Hook s r).ppu = s.ppu := by
  rw [mmc3Hook_eq]; rfl

/-- A tick reaches the mapper through its hook only (R184). -/
theorem TickFrame.session {s t : State} (h : TickFrame s t) : SessionFrame s t := by
  refine ⟨h.block.cart ▸ .refl _, h.block.params, ?_, h.block.loaded, h.block.pending⟩
  rw [h.mapper]
  split
  · obtain ⟨-, -, -, hid, -⟩ := mapperAfterHook_keeps s.mapper 0 0 false
    exact hid
  · rfl

@[simp] theorem mapperAtReset_id (p : Params) (m : Mapper) : (mapperAtReset p m).id = m.id := by
  cases m <;> rfl

/-- RESET keeps the cartridge and the parameters (R372). -/
theorem resetBlock_session (s : State) : SessionFrame s (resetBlock s) :=
  ⟨.refl _, rfl, mapperAtReset_id _ _, rfl, rfl⟩

/-- The outcome of a transaction is no part of the session. -/
theorem SessionFrame.afterComplete {s t : State} (h : SessionFrame s t) : SessionFrame s (complete t) :=
  ⟨h.cart, h.params, h.mapperId, h.loaded, h.pending⟩

/-- Every transaction that completes keeps the session. -/
theorem Effect.session {s t : State} {i : Instr} (h : Effect s i t) : SessionFrame s t := by
  cases h with
  | access i t _ _ ha => exact ha.session
  | mapper i t _ _ hm => exact hm.session
  | hook r hr => exact mmc3Hook_session hr
  | tick u hu => exact (tick_frame s u hu).session.afterComplete
  | reset => exact (resetBlock_session s).afterComplete

/-- TICK and RESET alone move the position (R23). -/
theorem Effect.samePosition {s t : State} {i : Instr} (h : Effect s i t) (htick : i ≠ .tick) (hreset : i ≠ .reset) :
    SamePosition s t := by
  cases h with
  | access i t _ _ ha => exact ⟨ha.ppu.position.scanline, ha.ppu.position.dot, ha.ppu.position.frameOdd⟩
  | mapper i t _ _ hm => rw [SamePosition, hm.ppu]; exact ⟨rfl, rfl, rfl⟩
  | hook r _ => rw [SamePosition, complete_ppu, mmc3Hook_ppu]; exact ⟨rfl, rfl, rfl⟩
  | tick u _ => exact absurd rfl htick
  | reset => exact absurd rfl hreset

/-- Settles O58: each case of Effect keeps the session, and the position where it is neither a tick nor a reset. -/
theorem sessionKept : Obligations.SessionKept := by
  intro s t i h
  have he : Effect s i t := exec_effect i s t h
  obtain ⟨hcart, hparams, hid, hloaded, hpending⟩ := he.session
  exact ⟨hcart.prgRom, hcart.prgBanks, hcart.chrRomBanks, hcart.ramBanks, hcart.hdrVertical, hparams, hid, hloaded,
    hpending, he.samePosition⟩

end Sys2Proof.Machine

/-! The session's invariant (R23, R28, R31, R32, R245, R290), kept by each case of Effect. -/

namespace Sys2Proof.Machine

/-- Two register contents that give the same tables and the same mirroring (R245, R255). -/
structure SameBanks (m n : Mapper) : Prop where
  prgTable : ∀ p, prgTableOf n p = prgTableOf m p
  chrTable : ∀ c, chrTableOf n c = chrTableOf m c
  mirroring : ∀ v, mirroringOf n v = mirroringOf m v

theorem SameBanks.refl (m : Mapper) : SameBanks m m := ⟨fun _ => rfl, fun _ => rfl, fun _ => rfl⟩

/-- The clock of a hook moves the MMC3 counter only, which no table reads (R321). -/
theorem sameBanks_mapperAfterHook (m : Mapper) : SameBanks m (mapperAfterHook m) := by
  constructor <;> intro x
  · obtain ⟨hprg, -⟩ := mapperAfterHook_keeps m x 0 false
    exact hprg
  · obtain ⟨-, hchr, -⟩ := mapperAfterHook_keeps m 0 x false
    exact hchr
  · obtain ⟨-, -, hmode, -⟩ := mapperAfterHook_keeps m 0 0 x
    exact hmode

@[simp] theorem shiftCountOk_mapperAfterHook (m : Mapper) : shiftCountOk (mapperAfterHook m) = shiftCountOk m := by
  obtain ⟨-, -, -, -, hcount⟩ := mapperAfterHook_keeps m 0 0 false
  exact hcount

@[simp] theorem shiftCountOk_mapperAtReset (p : Params) (m : Mapper) : shiftCountOk (mapperAtReset p m) = true := by
  cases m <;> rfl

/-- Whether a mode is pushed is the variant's, not its registers' (R255, R297, R320). -/
theorem pushesMirroring_eq (m : Mapper) : pushesMirroring m = decide (m.id = 1#8 ∨ m.id = 4#8) := by
  cases m <;> rfl

/-- A variant that pushes no mode has the header's, whatever its registers (R255). -/
theorem mirroringOf_of_not_pushes {m : Mapper} (h : ¬ pushesMirroring m = true) (v : Bool) :
    mirroringOf m v = headerMirroring v := by
  cases m with
  | nrom => rfl
  | uxrom sel => rfl
  | cnrom sel => rfl
  | mmc1 r => exact absurd rfl h
  | mmc3 r => exact absurd rfl h

theorem AccessCart.chrBanks {c d : Cartridge} (h : AccessCart c d) : chrBanks d = chrBanks c := by
  simp only [Machine.chrBanks, h.chrRomBanks]

/-- A change that recomputes nothing: tables and mirroring stay, and the registers that give them; position, memories
and slots stay within their bounds. Every transaction but a recomputing mapper row and RESET makes such a change. -/
structure InvFrame (s t : State) : Prop where
  position : PositionOk s → PositionOk t
  memories : s.ppu.memoriesOk → t.ppu.memoriesOk
  slots : SlotsOk s → SlotsOk t
  cart : AccessCart s.cart t.cart
  prgTable : t.prgTable = s.prgTable
  chrTable : t.chrTable = s.chrTable
  mirroring : t.mirroring = s.mirroring
  banks : SameBanks s.mapper t.mapper
  shiftCount : shiftCountOk s.mapper = true → shiftCountOk t.mapper = true

theorem InvFrame.inv {s t : State} (h : InvFrame s t) (hs : Inv s) : Inv t := by
  obtain ⟨hpos, ⟨hoam, hnt, hpal, hprg, hchr, hram⟩, hslots, ⟨⟨hp, hr⟩, htp, htc⟩, hmir, hcount⟩ := hs
  obtain ⟨hoam', hnt', hpal'⟩ := h.memories ⟨hoam, hnt, hpal⟩
  refine ⟨h.position hpos,
    ⟨hoam', hnt', hpal', h.cart.prgRom ▸ hprg, h.cart.chr hchr, h.cart.prgRam hram⟩, h.slots hslots,
    ⟨⟨h.cart.prgBanks ▸ hp, h.cart.ramBanks ▸ hr⟩, ?_, ?_⟩, ?_, h.shiftCount hcount⟩
  · rw [h.prgTable, h.cart.prgBanks, h.banks.prgTable, htp]
  · rw [h.chrTable, h.cart.chrBanks, h.banks.chrTable, htc]
  · rw [MirroringCoherent, h.mirroring, h.cart.hdrVertical, h.banks.mirroring, hmir]

/-- The outcome of a transaction is no part of the invariant. -/
theorem inv_complete {s : State} : Inv (complete s) ↔ Inv s := .rfl

/-- The host's stream is no part of the invariant. -/
theorem inv_pending {s : State} {rest : List Transaction} : Inv { s with pending := rest } ↔ Inv s := .rfl

theorem AccessFrame.invFrame {s t : State} (h : AccessFrame s t) : InvFrame s t where
  position hs := by rw [PositionOk, h.ppu.position.scanline, h.ppu.position.dot]; exact hs
  memories := h.ppu.memories
  slots hs := by rw [SlotsOk, h.ppu.sprites, h.ppu.secondary]; exact hs
  cart := h.cart
  prgTable := h.prgTable
  chrTable := h.chrTable
  mirroring := h.mirroring
  banks := by rw [h.mapper]; exact .refl _
  shiftCount hs := by rw [h.mapper]; exact hs

/-- Registers that give the tables they stand with need no recompute (R245). -/
theorem invFrame_setMapper {s : State} {m : Mapper} (hbanks : SameBanks s.mapper m)
    (hcount : shiftCountOk s.mapper = true → shiftCountOk m = true) : InvFrame s (setMapper m s) :=
  ⟨id, id, id, .refl _, rfl, rfl, rfl, hbanks, hcount⟩

/-- New registers of the same variant, with the recompute: the tables and the mirroring are theirs by construction,
the header's mode where the variant pushes none (R245, R255, R297, R320). -/
theorem updateMapper_inv {s : State} {m : Mapper} (hid : m.id = s.mapper.id)
    (hcount : shiftCountOk s.mapper = true → shiftCountOk m = true) (hs : Inv s) : Inv (updateMapper m s) := by
  obtain ⟨hpos, hmem, hslots, ⟨hgeo, -⟩, hmir, hc⟩ := hs
  refine ⟨hpos, hmem, hslots, ⟨hgeo, rfl, rfl⟩, ?_, hcount hc⟩
  rw [MirroringCoherent, updateMapper_mirroring, updateMapper_mapper, updateMapper_cart]
  split
  · rfl
  · next hpush =>
    have hpush' : ¬ pushesMirroring s.mapper = true := by rwa [pushesMirroring_eq, ← hid, ← pushesMirroring_eq]
    rw [hmir, mirroringOf_of_not_pushes hpush, mirroringOf_of_not_pushes hpush']

/-- A bit shifted in is seen by no table, and the count reaches 4 at most (R290, R291). -/
theorem mmc1Shift_inv {s : State} {r : Mmc1} (hr : s.mapper = .mmc1 r) (hlt : r.shiftCount < 4) (v : BitVec 5)
    (hs : Inv s) :
    Inv (setMapper (.mmc1 { r with shiftValue := v, shiftCount := r.shiftCount + 1 }) s) := by
  refine (invFrame_setMapper ?_ fun _ => ?_).inv hs
  · rw [hr]; exact ⟨fun _ => rfl, fun _ => rfl, fun _ => rfl⟩
  · simp only [shiftCountOk, decide_eq_true_eq]; omega

theorem MapperEffect.inv {s t : State} (h : MapperEffect s t) (hs : Inv s) : Inv t := by
  cases h with
  | stay => exact inv_complete.2 hs
  | bank m hid hcount => exact inv_complete.2 (updateMapper_inv hid hcount hs)
  | shift r v hr hlt => exact inv_complete.2 (mmc1Shift_inv hr hlt v hs)

/-- A hook transaction clocks the MMC3 counter, as the hook of a tick does (R321). -/
theorem mmc3Hook_inv {s : State} {r : Mmc3} (hr : s.mapper = .mmc3 r) (hs : Inv s) : Inv (mmc3Hook s r) := by
  have hset : Inv (setMapper (.mmc3 (clockIrq r)) s) := by
    refine (invFrame_setMapper ?_ fun _ => rfl).inv hs
    rw [hr]; exact sameBanks_mapperAfterHook (.mmc3 r)
  rw [mmc3Hook_eq]
  exact hset

theorem TickFrame.invFrame {s t : State} (h : TickFrame s t) : InvFrame s t where
  position hs := by rw [PositionOk, h.scanline, h.dot]; exact advance_range s.ppu hs.1 hs.2
  memories hs := by rw [Ppu.memoriesOk, h.kept.oam, h.kept.ntMem, h.kept.palMem]; exact hs
  slots := h.slots
  cart := by rw [h.block.cart]; exact .refl _
  prgTable := h.block.prgTable
  chrTable := h.block.chrTable
  mirroring := h.block.mirroring
  banks := by
    rw [h.mapper]
    split
    · exact sameBanks_mapperAfterHook _
    · exact .refl _
  shiftCount hs := by
    rw [h.mapper]
    split
    · rw [shiftCountOk_mapperAfterHook]; exact hs
    · exact hs

/-- RESET establishes the invariant on a canonical cartridge with a PRG bank and a RAM bank, whatever the PPU, the
registers and the tables were (R36, R371, R372). -/
theorem resetBlock_inv {s : State} (hgeo : GeometryOk s) (hprg : Memory.wf s.cart.prgRom)
    (hchr : Memory.wf s.cart.chr) (hram : Memory.wf s.cart.prgRam) : Inv (resetBlock s) :=
  ⟨⟨Nat.zero_le _, Nat.zero_le _⟩, ⟨nil_wf, nil_wf, nil_wf, hprg, hchr, hram⟩, ⟨rfl, rfl⟩, ⟨hgeo, rfl, rfl⟩, rfl,
    shiftCountOk_mapperAtReset _ _⟩

/-- Every transaction that completes keeps the invariant. -/
theorem Effect.inv {s t : State} {i : Instr} (h : Effect s i t) (hs : Inv s) : Inv t := by
  cases h with
  | access i t _ _ ha => exact ha.invFrame.inv hs
  | mapper i t _ _ hm => exact hm.inv hs
  | hook r hr => exact inv_complete.2 (mmc3Hook_inv hr hs)
  | tick u hu => exact inv_complete.2 ((tick_frame s u hu).invFrame.inv hs)
  | reset =>
    obtain ⟨-, ⟨-, -, -, hprg, hchr, hram⟩, -, ⟨hgeo, -⟩, -, -⟩ := hs
    exact inv_complete.2 (resetBlock_inv hgeo hprg hchr hram)

/-- All a step that completes can do: stand still, or perform the transaction it takes off the host's stream (R76). -/
theorem step_next {s t : State} (h : step s = .next t) :
    t = s ∨ ∃ i rest, exec i { s with pending := rest } = .next t := by
  simp only [step] at h
  split at h
  · cases h; exact .inl rfl
  · cases h
  · next i u hfetch =>
    obtain ⟨-, rest, -, rfl, -⟩ := fetch_run s u i hfetch
    exact .inr ⟨i, rest, h⟩

/-- Settles O56: each case of Effect keeps the invariant, which does not speak of the host's stream. -/
theorem stepKeepsInv : Obligations.StepKeepsInv := by
  intro s t hs h
  obtain rfl | ⟨i, rest, hexec⟩ := step_next h
  · exact hs
  · exact (exec_effect i _ t hexec).inv (inv_pending.2 hs)

/-- The state after reset is a fixed point of RESET (R36, R371). -/
theorem resetBlock_reset : resetBlock State.reset = State.reset := rfl

/-- Settles O9: RESET on the smallest cartridge, whose memories are empty, establishes the invariant. -/
theorem resetStateInv : Obligations.ResetStateInv := by
  unfold Obligations.ResetStateInv
  rw [← resetBlock_reset]
  exact resetBlock_inv ⟨Nat.le_refl 1, Nat.le_refl 1⟩ nil_wf nil_wf nil_wf

end Sys2Proof.Machine

/-! What a tick leaves unchanged (R20, R21, R24, R34, R161). -/

namespace Sys2Proof.Machine

/-- Off the rendering lines a tick is the events, the hook and the advance (R160, R161). -/
theorem tick_offLine {s : State} (h : ¬ OnRenderingLine s) : tick s = .ok (endOfDot s) :=
  if_neg (mt (renderingLine_iff s).1 h)

/-- Where the hook is due, in numbers (R184). -/
theorem hookDue_iff (s : State) : hookDue s.ppu ↔ OnRenderingLine s ∧ s.ppu.dot = 260 ∧ RenderingOn s :=
  and_congr (renderingLine_iff s) (and_congr Iff.rfl (rendering_iff s))

theorem PpuKept.sameBytes {s t : State} (hp : PpuKept s.ppu t.ppu) (hc : t.cart = s.cart) : SameBytes s t := by
  intro k a
  cases k <;> simp only [byteAt, State.memory, hp.oam, hp.ntMem, hp.palMem, hc]

theorem BlockKept.sameSession {s t : State} (h : BlockKept s t) : SameSession s t := by
  refine ⟨?_, ?_, ?_, ?_, h.params, h.loaded, h.started, h.pending⟩ <;> rw [h.cart]

/-- The mapper stays, or it is MMC3 whose counter a due hook clocks (R246, R321). -/
theorem TickFrame.mapper_cases {s t : State} (h : TickFrame s t) :
    t.mapper = s.mapper
      ∨ ∃ r c, s.mapper = .mmc3 r ∧ t.mapper = .mmc3 { r with irqCounter := c } ∧ hookDue s.ppu := by
  rw [h.mapper]
  split
  · next hdue =>
    cases hm : s.mapper with
    | mmc3 r => exact .inr ⟨r, (clockIrq r).irqCounter, rfl, rfl, hdue⟩
    | nrom => exact .inl rfl
    | uxrom sel => exact .inl rfl
    | cnrom sel => exact .inl rfl
    | mmc1 r => exact .inl rfl
  · exact .inl rfl

/-- The start of vertical blank moves `vertical_blank` only; the clear of the flags is on the pre-render line (R180,
R181). -/
theorem statusAfterEvents_offLine {p : Ppu} (h : p.scanline ≠ 261) :
    (statusAfterEvents p).spriteOverflow = p.status.spriteOverflow
      ∧ (statusAfterEvents p).spriteZeroHit = p.status.spriteZeroHit := by
  rw [statusAfterEvents, if_neg (fun hp => h hp.1)]
  split <;> exact ⟨rfl, rfl⟩

/-- Off the rendering lines the end of a dot moves `vertical_blank`, the events and the position only (R161). -/
theorem EndFrame.offLine {s t : State} (h : EndFrame s t) (hl : ¬ OnRenderingLine s) :
    SameScroll s t ∧ SamePipeline s t ∧ SameSprites s t ∧ SameMapper s t
      ∧ t.ppu.status.spriteOverflow = s.ppu.status.spriteOverflow
      ∧ t.ppu.status.spriteZeroHit = s.ppu.status.spriteZeroHit := by
  have hmapper : t.mapper = s.mapper := by
    rw [h.mapper, if_neg (fun hdue => hl ((hookDue_iff s).1 hdue).1)]
  have hstatus := statusAfterEvents_offLine (p := s.ppu) (fun h261 => hl (.inr h261))
  rw [← h.status] at hstatus
  exact ⟨⟨h.v, h.kept.t, h.kept.fineX, h.kept.w⟩,
    ⟨h.shifters.bgShiftLow, h.shifters.bgShiftHigh, h.shifters.atShiftLow, h.shifters.atShiftHigh, h.latches.atFeedLow,
      h.latches.atFeedHigh, h.latches.fetchAddr, h.latches.ntByte, h.latches.atByte, h.latches.patternLow,
      h.latches.patternHigh⟩,
    ⟨h.sprites, h.secondary⟩, ⟨hmapper, h.block.prgTable, h.block.chrTable, h.block.mirroring⟩, hstatus⟩

/-- Settles O44: the frame of a tick, and off the rendering lines that of the end of a dot, which is then the whole
tick. -/
theorem tickFrame : Obligations.TickFrame := by
  intro s t h
  obtain ⟨u, hu, rfl⟩ := execTick_next s t h
  have f : TickFrame s u := tick_frame s u hu
  refine ⟨f.kept.sameBytes f.block.cart, f.block.sameSession, f.kept.t, f.kept.fineX, f.kept.w, f.kept.readBuffer,
    f.kept.oamAddr, f.kept.control, f.kept.mask, f.block.prgTable, f.block.chrTable, f.block.mirroring, f.block.draws,
    rfl, ?_, fun hl => ?_⟩
  · obtain hsame | ⟨r, c, hs, ht, hdue⟩ := f.mapper_cases
    · exact .inl hsame
    · obtain ⟨hline, hdot, hon⟩ := (hookDue_iff s).1 hdue
      exact .inr ⟨r, c, hs, ht, hdot, hline, hon⟩
  · obtain rfl : endOfDot s = u := Except.ok.inj ((tick_offLine hl).symm.trans hu)
    exact (endOfDot_frame s).offLine hl

end Sys2Proof.Machine

/-! The step that performs a decoded transaction (R76, R103, R373). -/

namespace Sys2Proof.Machine

/-- The fetch admits or refuses the first transaction of the stream, in the state without it (R76). -/
theorem fetch_of_pending {s : State} {x : Transaction} {rest : List Transaction} (h : s.pending = x :: rest) :
    fetch s = accept x { s with pending := rest } := by
  rw [fetch, h]

/-- A session of its own MAPPER_ID admits what decodes and may run (R103, R373). -/
theorem accept_of_decode {s : State} {x : Transaction} {i : Instr} (hload : s.loaded = true)
    (hid : wordMapper x.word = s.mapper.id) (hdec : decode x = .ok i) (hrun : mayRun s i = true) :
    accept x s = .run i s := by
  rw [accept, if_neg (by simp [hload]), if_neg (not_not.2 hid), hdec]
  exact if_pos hrun

theorem mayRun_iff {s : State} {i : Instr} : mayRun s i = true ↔ s.started = true ∨ i = .reset := by
  simp only [mayRun, Bool.or_eq_true, decide_eq_true_eq]

/-- Settles O6: the fetch admits the decoded transaction in the state without it, and the step is `exec` of that. -/
theorem stepRunsDecoded : Obligations.StepRunsDecoded := by
  intro s x rest i hload hpend hid hdec hrun
  have hfetch : fetch s = .run i { s with pending := rest } :=
    (fetch_of_pending hpend).trans (accept_of_decode hload hid hdec (mayRun_iff.2 hrun))
  rw [step, hfetch]

end Sys2Proof.Machine

/-! The accesses of the PPU bus, byte by byte (R66, R69, R70, R81 to R84, R242). -/

namespace Sys2Proof.Machine

/-! ### The rows of the PPU bus -/

/-- NT_R returns the byte of the mirrored page (R81). -/
theorem exec_ntR (a : Addr) (s : State) :
    exec (.ntR a) s = .next (returnByte (byteAt s .nt (ntIndex s.mirroring (ppuAddrOf a))) s) := rfl

theorem exec_ntW (a : Addr) (d : Byte) (s : State) :
    exec (.ntW a d) s = .next (complete (ntWrite (ppuAddrOf a) d s)) := rfl

/-- PAL_R returns the byte at the folded index (R83). -/
theorem exec_palR (a : Addr) (s : State) :
    exec (.palR a) s = .next (returnByte (byteAt s .pal (palIndex (ppuAddrOf a))) s) := rfl

theorem exec_palW (a : Addr) (d : Byte) (s : State) :
    exec (.palW a d) s = .next (complete (palWrite (ppuAddrOf a) d s)) := rfl

/-- CHR_R returns what `read_rom_character` reads (R242). -/
theorem exec_chrR_of_chrRead {a : Addr} {s : State} {b : Byte} (h : chrRead s a.toNat = .ok b) :
    exec (.chrR a) s = .next (returnByte b s) := by
  simp only [exec, execChrR, settleByte, h, Except.map, settle]

/-- The outcome of a transaction is no byte of a memory. -/
theorem sameBytesBut_complete {k : Space} {a : Nat} {s t : State} :
    SameBytesBut k a s (complete t) ↔ SameBytesBut k a s t := by
  simp only [SameBytesBut, byteAt_complete]

/-! ### Nametables -/

/-- Settles O26: the index of the model is that of R69, and the write changes the byte at it only. -/
theorem nametableAccess : Obligations.NametableAccess := by
  intro s a d _ hhi hwf r page n
  have hn : ntIndex s.mirroring (ppuAddrOf a) = n := by
    have h := ntIndex_eq s.mirroring (ppuAddrOf a)
    rw [ppuAddrOf_toNat a (by omega)] at h
    exact h
  obtain ⟨hbyte, hrest⟩ := ntWrite_bytes s (ppuAddrOf a) d hwf
  rw [← hn]
  exact ⟨ntIndex_lt _ _, exec_ntR a s, _, exec_ntW a d s, rfl, hbyte, sameBytesBut_complete.2 hrest⟩

/-! ### The palette -/

/-- Addresses 32 apart repeat, and those of a pair 0x10 apart are aliases where the index is a multiple of 4 (R70). -/
theorem palIndex_eq_of_alias {a b : PpuAddr}
    (h : b.toNat % 32 = a.toNat % 32 ∨ a.toNat % 32 % 4 = 0 ∧ b.toNat % 16 = a.toNat % 16) :
    palIndex b = palIndex a := by
  rw [palIndex_eq, palIndex_eq]
  obtain hrepeat | ⟨hmul, hpair⟩ := h
  · rw [hrepeat]
  · split <;> split <;> omega

/-- Settles O27: the index of the model is that of R70, the write changes the byte at it only, and every alias folds to
the same index. -/
theorem paletteAccess : Obligations.PaletteAccess := by
  intro s a d _ hhi hwf i n
  have ha : (ppuAddrOf a).toNat = a.toNat := ppuAddrOf_toNat a (by omega)
  have hn : palIndex (ppuAddrOf a) = n := by
    rw [palIndex_eq, ha]
  obtain ⟨hbyte, hrest⟩ := palWrite_bytes s (ppuAddrOf a) d hwf
  rw [← hn]
  refine ⟨exec_palR a s, _, exec_palW a d s, rfl, hbyte, sameBytesBut_complete.2 hrest, fun b _ hbhi halias => ?_⟩
  have hb : (ppuAddrOf b).toNat = b.toNat := ppuAddrOf_toNat b (by omega)
  have hfold : palIndex (ppuAddrOf b) = palIndex (ppuAddrOf a) :=
    palIndex_eq_of_alias (by rw [ha, hb]; exact halias)
  rw [exec_palR, hfold, byteAt_complete, hbyte]
  rfl

/-! ### The read of the PPU itself -/

theorem ppuBusRead_chr {s : State} {a : PpuAddr} (h : a.toNat ≤ 0x1FFF) : ppuBusRead s a = chrRead s a.toNat :=
  if_pos h

theorem ppuBusRead_nt {s : State} {a : PpuAddr} (hlo : 0x2000 ≤ a.toNat) (hhi : a.toNat ≤ 0x3EFF) :
    ppuBusRead s a = .ok (byteAt s .nt (ntIndex s.mirroring a)) := by
  rw [ppuBusRead, if_neg (by omega), if_pos hhi]; rfl

theorem ppuBusRead_pal {s : State} {a : PpuAddr} (hlo : 0x3F00 ≤ a.toNat) :
    ppuBusRead s a = .ok (byteAt s .pal (palIndex a)) := by
  rw [ppuBusRead, if_neg (by omega), if_neg (by omega)]; rfl

/-- Settles O60: region by region, the bus read and the row of the region read one byte. -/
theorem ppuBusReadByte : Obligations.PpuBusReadByte := by
  intro s a hs ha b
  have hb : b.toNat = a.toNat := ppuAddrOf_toNat a (by omega)
  refine ⟨fun hchr => ?_, fun hlo hhi => ?_, fun hlo => ?_⟩
  · obtain ⟨bank, j, hrom, -, -, hread⟩ := chrRead_ok s a.toNat hs hchr
    refine ⟨bank, j, hrom, ?_, exec_chrR_of_chrRead hread⟩
    rw [ppuBusRead_chr (hb ▸ hchr), hb, hread]
  · exact ⟨ppuBusRead_nt (hb ▸ hlo) (hb ▸ hhi), exec_ntR a s⟩
  · exact ⟨ppuBusRead_pal (hb ▸ hlo), exec_palR a s⟩

end Sys2Proof.Machine

/-! A word encoded from a well-formed row decodes to that row (R100, R103 to R107). -/

namespace Sys2Proof

/-! ### The decoder of a packed word, space by space -/

theorem decode_cpuWord (mid : Byte) (rw : Bool) (a : Addr) (d : Byte) :
    decode ⟨packWord mid 0#2 rw a, d⟩ = decodeCpu mid rw a d :=
  decode_packWord mid 0#2 rw a d

theorem decode_ppuWord (mid : Byte) (rw : Bool) (a : Addr) (d : Byte) :
    decode ⟨packWord mid 1#2 rw a, d⟩ = decodePpu rw a d :=
  decode_packWord mid 1#2 rw a d

theorem decode_controlWord (mid : Byte) (rw : Bool) (op : Addr) (d : Byte) :
    decode ⟨packWord mid 2#2 rw op, d⟩ = decodeControl mid rw op :=
  decode_packWord mid 2#2 rw op d

/-! ### The rows of each kind -/

/-- A write to port `p` is the row the port decoder has for that port number (R104). -/
theorem decode_portWrite {p a : Addr} {i : Instr} (mid d : Byte) (ha : portAddr p a = true) (hp : p.toNat < 8)
    (hi : (a.extractLsb' 0 3).toNat = p.toNat → decodePortWrite a d = i) :
    decode ⟨packWord mid 0#2 true a, d⟩ = .ok i := by
  obtain ⟨hdec, hport⟩ := port_ok p a mid d true ha hp
  rw [decode_cpuWord, hdec, if_pos rfl, hi hport]

/-- A read of port `p` is the row the port decoder has for that port number (R104). -/
theorem decode_portRead {p a : Addr} {i : Instr} (mid d : Byte) (ha : portAddr p a = true) (hp : p.toNat < 8)
    (hi : (a.extractLsb' 0 3).toNat = p.toNat → decodePortRead a = i) :
    decode ⟨packWord mid 0#2 false a, d⟩ = .ok i := by
  obtain ⟨hdec, hport⟩ := port_ok p a mid d false ha hp
  rw [decode_cpuWord, hdec, if_neg (by decide), hi hport]

/-- A write in the PRG window is the row of the word's own mapper (R105). -/
theorem decode_prgWrite {a : Addr} (mid d : Byte) (ha : prgAddr a = true) :
    decode ⟨packWord mid 0#2 true a, d⟩ = decodeMapperWrite mid a d := by
  rw [decode_cpuWord, prg_ok a mid d true ha, if_pos rfl]

/-- A write to an MMC1 range is the row of the range's bits 14:13 (R105). -/
theorem decode_mmc1Write {base a : Addr} {i : Instr} (d : Byte) (ha : mmc1Addr base a = true)
    (hb : base &&& 0x8000#16 = 0x8000#16)
    (hi : a.extractLsb' 13 2 = base.extractLsb' 13 2 → decodeMmc1Write a d = i) :
    decode ⟨packWord 1#8 0#2 true a, d⟩ = .ok i := by
  obtain ⟨hprg, hmid⟩ := mmc1_ok base a ha hb
  rw [decode_prgWrite _ _ hprg, ← hi hmid]
  rfl

/-- A write to an MMC3 port is the row of the port's bits 14:13 and 0 (R105). -/
theorem decode_mmc3Write {base a : Addr} {i : Instr} (d : Byte) (ha : mmc3Addr base a = true)
    (hb : base &&& 0x8000#16 = 0x8000#16)
    (hi : a.extractLsb' 13 2 = base.extractLsb' 13 2 → a.getLsbD 0 = base.getLsbD 0 → decodeMmc3Write a d = i) :
    decode ⟨packWord 4#8 0#2 true a, d⟩ = .ok i := by
  obtain ⟨hprg, hmid, hbit⟩ := mmc3_ok base a ha hb
  rw [decode_prgWrite _ _ hprg, ← hi hmid hbit]
  rfl

theorem decodePpu_chr {a : Addr} (rw : Bool) (d : Byte) (ha : chrAddr a = true) :
    decodePpu rw a d = .ok (if rw then .chrW a d else .chrR a) := by
  rw [decodePpu, if_pos ha]

theorem decodePpu_pal {a : Addr} (rw : Bool) (d : Byte) (ha : palAddr a = true) :
    decodePpu rw a d = .ok (if rw then .palW a d else .palR a) := by
  rw [decodePpu, pal_not_chr a ha, if_neg (by decide), if_pos ha]

theorem decodePpu_nt {a : Addr} (rw : Bool) (d : Byte) (ha : ntAddr a = true) :
    decodePpu rw a d = .ok (if rw then .ntW a d else .ntR a) := by
  obtain ⟨hchr, hpal⟩ := nt_ok a ha
  rw [decodePpu, hchr, hpal, if_neg (by decide), if_neg (by decide), if_pos ha]

/-- Settles O1: each row by the decoder of its kind; the operands a row admits are those its kind's decoder sends to
it. -/
theorem decodeOfEncode : Obligations.DecodeOfEncode := by
  intro mid i h
  cases i with
  | ppuCtrlW a d | ppuMaskW a d | ppuStatusW a d | oamAddrW a d | oamDataW a d | ppuScrollW a d | ppuAddrW a d
  | ppuDataW a d =>
    exact decode_portWrite mid d h (by decide) fun hport => by rw [decodePortWrite, hport]; rfl
  | ppuCtrlR a | ppuMaskR a | ppuStatusR a | oamAddrR a | oamDataR a | ppuScrollR a | ppuAddrR a | ppuDataR a =>
    exact decode_portRead mid 0 h (by decide) fun hport => by rw [decodePortRead, hport]; rfl
  | prgR a => exact (decode_cpuWord ..).trans (prg_ok a mid 0 false h)
  | ramR a => exact (decode_cpuWord ..).trans (ram_ok a mid 0 false h)
  | ramW a d => exact (decode_cpuWord ..).trans (ram_ok a mid d true h)
  | nromPrgW a d => exact decode_prgWrite 0 d h
  | uxromBankW a d => exact decode_prgWrite 2 d h
  | cnromBankW a d => exact decode_prgWrite 3 d h
  | mmc1ControlW a d | mmc1Chr0W a d | mmc1Chr1W a d | mmc1PrgW a d =>
    exact decode_mmc1Write d h (by decide) fun hmid => by rw [decodeMmc1Write, hmid]; rfl
  | mmc3BankSelectW a d | mmc3BankDataW a d | mmc3MirroringW a d | mmc3RamProtectW a d | mmc3IrqLatchW a d
  | mmc3IrqReloadW a d | mmc3IrqDisableW a d | mmc3IrqEnableW a d =>
    exact decode_mmc3Write d h (by decide) fun hmid hbit => by rw [decodeMmc3Write, hmid, hbit]; rfl
  | chrR a => exact (decode_ppuWord ..).trans (decodePpu_chr false 0 h)
  | chrW a d => exact (decode_ppuWord ..).trans (decodePpu_chr true d h)
  | ntR a => exact (decode_ppuWord ..).trans (decodePpu_nt false 0 h)
  | ntW a d => exact (decode_ppuWord ..).trans (decodePpu_nt true d h)
  | palR a => exact (decode_ppuWord ..).trans (decodePpu_pal false 0 h)
  | palW a d => exact (decode_ppuWord ..).trans (decodePpu_pal true d h)
  | tick | reset => exact decode_controlWord mid false _ 0
  | nromHook => exact decode_controlWord 0 false 1 0
  | mmc1Hook => exact decode_controlWord 1 false 1 0
  | uxromHook => exact decode_controlWord 2 false 1 0
  | cnromHook => exact decode_controlWord 3 false 1 0
  | mmc3Hook => exact decode_controlWord 4 false 1 0

/-- Settles O5: each word is the encoding of the row, address and data byte the table gives it. -/
theorem sampleWordsDecode : Obligations.SampleWordsDecode :=
  ⟨decodeOfEncode 0 (.ppuAddrW 0x3456 0x20) rfl, decodeOfEncode 0 (.ppuStatusR 0x200A) rfl,
    decodeOfEncode 2 (.uxromBankW 0xC123 0xF5) rfl, decodeOfEncode 1 (.mmc1Chr0W 0xBFFF 0x01) rfl,
    decodeOfEncode 4 (.mmc3BankDataW 0x9FFF 0x21) rfl, decodeOfEncode 0 (.palR 0x3F10) rfl,
    decodeOfEncode 0 (.chrW 0x1243 0xFF) rfl, decodeOfEncode 4 .mmc3Hook rfl⟩

end Sys2Proof

/-! What a session refuses at the fetch, and a mapper row in a session of another variant (R103, R373). -/

namespace Sys2Proof.Machine

/-! ### Refusals of the fetch -/

/-- A step refuses what the admission of the first pending transaction refuses (R76). -/
theorem step_of_refuse {s : State} {x : Transaction} {rest : List Transaction} {r : Refusal}
    (hpend : s.pending = x :: rest) (h : accept x { s with pending := rest } = .refuse r) : step s = .refused r := by
  rw [step, (fetch_of_pending hpend).trans h]

theorem step_of_idle {s : State} (h : s.pending = []) : step s = .next s := by
  rw [step, fetch, h]

theorem accept_of_unloaded {s : State} (x : Transaction) (hload : s.loaded = false) :
    accept x s = .refuse .noCartridge :=
  if_pos hload

theorem accept_of_otherMapper {s : State} {x : Transaction} (hload : s.loaded = true)
    (hid : wordMapper x.word ≠ s.mapper.id) : accept x s = .refuse (.otherMapper (wordMapper x.word)) := by
  rw [accept, if_neg (by simp [hload]), if_pos hid]

theorem accept_of_undecoded {s : State} {x : Transaction} {e : Reject} (hload : s.loaded = true)
    (hid : wordMapper x.word = s.mapper.id) (hdec : decode x = .error e) : accept x s = .refuse (.undecoded e) := by
  rw [accept, if_neg (by simp [hload]), if_neg (not_not.2 hid), hdec]

theorem accept_of_beforeReset {s : State} {x : Transaction} {i : Instr} (hload : s.loaded = true)
    (hid : wordMapper x.word = s.mapper.id) (hdec : decode x = .ok i) (hrun : ¬ mayRun s i = true) :
    accept x s = .refuse .beforeReset := by
  rw [accept, if_neg (by simp [hload]), if_neg (not_not.2 hid), hdec]
  exact if_neg hrun

/-- Settles O7: the checks of the admission in the model's order, each refusal under the checks before it passed. -/
theorem stepOtherwise : Obligations.StepOtherwise := by
  refine fun s => ⟨step_of_idle, fun x rest hpend => ⟨fun hload => ?_, fun hload hid => ?_, fun hload hid => ⟨?_, ?_⟩⟩⟩
  · exact step_of_refuse hpend (accept_of_unloaded x hload)
  · exact step_of_refuse hpend (accept_of_otherMapper hload hid)
  · exact fun e hdec => step_of_refuse hpend (accept_of_undecoded hload hid hdec)
  · intro i hdec hi hstart
    have hrun : ¬ mayRun { s with pending := rest } i = true := by
      rw [mayRun_iff]
      simp [hi, hstart]
    exact step_of_refuse hpend (accept_of_beforeReset hload hid hdec hrun)

/-! ### Rows of another variant -/

/-- Settles O30: every row of NROM, UXROM and CNROM is a `forVariant`, every row of MMC1 an `onMmc1` and every row of
MMC3 an `onMmc3`. -/
theorem otherVariantRowRefused : Obligations.OtherVariantRowRefused := by
  intro s a d
  simp only [List.forall_mem_cons, List.not_mem_nil, false_imp_iff, implies_true, and_true]
  refine ⟨fun h => ?_, fun h => ?_, fun h => ?_, fun h => ?_, fun h => ?_⟩
  · exact ⟨forVariant_other 0 s _ h, forVariant_other 0 s _ h⟩
  · exact ⟨onMmc1_other s _ h, onMmc1_other s _ h, onMmc1_other s _ h, onMmc1_other s _ h, onMmc1_other s _ h⟩
  · exact ⟨forVariant_other 2 s _ h, forVariant_other 2 s _ h⟩
  · exact ⟨forVariant_other 3 s _ h, forVariant_other 3 s _ h⟩
  · exact ⟨onMmc3_other s _ h, onMmc3_other s _ h, onMmc3_other s _ h, onMmc3_other s _ h, onMmc3_other s _ h,
      onMmc3_other s _ h, onMmc3_other s _ h, onMmc3_other s _ h, onMmc3_other s _ h⟩

end Sys2Proof.Machine

/-! What decodes is well-formed and encoded by its own word (R100, R101, R104 to R107). -/

namespace Sys2Proof

/-! ### The decoder of a word, space by space -/

theorem wordSpace_cases (w : Word) :
    wordSpace w = 0#2 ∨ wordSpace w = 1#2 ∨ wordSpace w = 2#2 ∨ wordSpace w = 3#2 := by
  generalize wordSpace w = sp
  revert sp
  decide

theorem decode_reservedBits {x : Transaction} (h : wordReservedZero x.word = false) :
    decode x = .error .reservedBits := by
  rw [decode, h, if_neg (by decide)]

theorem decode_cpuSpace {x : Transaction} (hres : wordReservedZero x.word = true) (hsp : wordSpace x.word = 0#2) :
    decode x = decodeCpu (wordMapper x.word) (wordWrite x.word) (wordAddr x.word) x.data := by
  rw [decode, if_pos hres, hsp]; rfl

theorem decode_ppuSpace {x : Transaction} (hres : wordReservedZero x.word = true) (hsp : wordSpace x.word = 1#2) :
    decode x = decodePpu (wordWrite x.word) (wordAddr x.word) x.data := by
  rw [decode, if_pos hres, hsp]; rfl

theorem decode_controlSpace {x : Transaction} (hres : wordReservedZero x.word = true) (hsp : wordSpace x.word = 2#2) :
    decode x = decodeControl (wordMapper x.word) (wordWrite x.word) (wordAddr x.word) := by
  rw [decode, if_pos hres, hsp]; rfl

theorem decode_reservedSpace {x : Transaction} (hres : wordReservedZero x.word = true) (hsp : wordSpace x.word = 3#2) :
    decode x = .error .reservedSpace := by
  rw [decode, if_pos hres, hsp]; rfl

theorem reservedZero_of_decode {x : Transaction} {i : Instr} (h : decode x = .ok i) :
    wordReservedZero x.word = true := by
  by_contra hres
  rw [decode_reservedBits (Bool.eq_false_of_not_eq_true hres)] at h
  cases h

/-! ### The rows of each space -/

/-- A decoded mapper write is well-formed, and encoded by the word of its own mapper (R105). -/
theorem decodeMapperWrite_wf {mid : Byte} {a : Addr} {d : Byte} {i : Instr} (ha : prgAddr a = true)
    (h : decodeMapperWrite mid a d = .ok i) : i.wf = true ∧ encode mid i = ⟨packWord mid 0#2 true a, d⟩ := by
  rw [decodeMapperWrite] at h
  split at h <;> rename_i hid
  · obtain rfl : mid = 0#8 := BitVec.eq_of_toNat_eq hid
    cases h; exact ⟨ha, rfl⟩
  · obtain rfl : mid = 1#8 := BitVec.eq_of_toNat_eq hid
    cases h; exact mmc1W_wf a d ha 1
  · obtain rfl : mid = 2#8 := BitVec.eq_of_toNat_eq hid
    cases h; exact ⟨ha, rfl⟩
  · obtain rfl : mid = 3#8 := BitVec.eq_of_toNat_eq hid
    cases h; exact ⟨ha, rfl⟩
  · obtain rfl : mid = 4#8 := BitVec.eq_of_toNat_eq hid
    cases h; exact mmc3W_wf a d ha 4
  · cases h

/-- What decodes in the CPU space is well-formed, and encoded by its word (R104, R105). -/
theorem decodeCpu_wf {mid : Byte} {rw : Bool} {a : Addr} {d : Byte} {i : Instr} (h : decodeCpu mid rw a d = .ok i) :
    i.wf = true ∧ encode mid i = ⟨packWord mid 0#2 rw a, if rw then d else 0⟩ := by
  rw [decodeCpu] at h
  split at h
  next hport =>
    cases rw <;> cases h
    · exact portRead_wf a hport mid
    · exact portWrite_wf a d hport mid
  next =>
    split at h
    next hram => cases rw <;> cases h <;> exact ⟨hram, rfl⟩
    next =>
      split at h
      next hprg =>
        cases rw
        · cases h; exact ⟨hprg, rfl⟩
        · exact decodeMapperWrite_wf hprg h
      next => cases h

/-- What decodes in the PPU space is well-formed, and encoded by its word (R106). -/
theorem decodePpu_wf {rw : Bool} {a : Addr} {d : Byte} {i : Instr} (mid : Byte) (h : decodePpu rw a d = .ok i) :
    i.wf = true ∧ encode mid i = ⟨packWord mid 1#2 rw a, if rw then d else 0⟩ := by
  rw [decodePpu] at h
  split at h
  next hchr => cases rw <;> cases h <;> exact ⟨hchr, rfl⟩
  next =>
    split at h
    next hpal => cases rw <;> cases h <;> exact ⟨hpal, rfl⟩
    next =>
      split at h
      next hnt => cases rw <;> cases h <;> exact ⟨hnt, rfl⟩
      next => cases h

/-- A decoded hook is well-formed, and encoded by the word of its own mapper (R107). -/
theorem decodeHook_wf {mid : Byte} {i : Instr} (h : decodeHook mid = .ok i) :
    i.wf = true ∧ encode mid i = ⟨packWord mid 2#2 false 1#16, 0⟩ := by
  have hmid : mid = BitVec.ofNat 8 mid.toNat := by simp
  rw [decodeHook] at h
  split at h <;> rename_i hid <;> cases h <;> exact ⟨rfl, by rw [hmid, hid]; rfl⟩

/-- What decodes in the control space is no write, is well-formed, and is encoded by its word (R107). -/
theorem decodeControl_wf {mid : Byte} {rw : Bool} {op : Addr} {i : Instr} (h : decodeControl mid rw op = .ok i) :
    rw = false ∧ i.wf = true ∧ encode mid i = ⟨packWord mid 2#2 false op, 0⟩ := by
  rw [decodeControl] at h
  split at h
  next => cases h
  next hrw =>
    refine ⟨Bool.eq_false_of_not_eq_true hrw, ?_⟩
    split at h <;> rename_i hop
    · obtain rfl : op = 0#16 := BitVec.eq_of_toNat_eq hop
      cases h; exact ⟨rfl, rfl⟩
    · obtain rfl : op = 1#16 := BitVec.eq_of_toNat_eq hop
      exact decodeHook_wf h
    · obtain rfl : op = 2#16 := BitVec.eq_of_toNat_eq hop
      cases h; exact ⟨rfl, rfl⟩
    · cases h

/-- Settles O2: space by space, the encoding is the word of the decoded word's own fields, which is the word itself. -/
theorem encodeOfDecode : Obligations.EncodeOfDecode := by
  intro x i h
  have hres : wordReservedZero x.word = true := reservedZero_of_decode h
  have hword := packWord_fields x.word hres
  obtain hsp | hsp | hsp | hsp := wordSpace_cases x.word <;> rw [hsp] at hword
  · obtain ⟨hwf, henc⟩ := decodeCpu_wf ((decode_cpuSpace hres hsp).symm.trans h)
    exact ⟨hwf, henc.trans (congrArg (Transaction.mk · _) hword)⟩
  · obtain ⟨hwf, henc⟩ := decodePpu_wf (wordMapper x.word) ((decode_ppuSpace hres hsp).symm.trans h)
    exact ⟨hwf, henc.trans (congrArg (Transaction.mk · _) hword)⟩
  · obtain ⟨hrw, hwf, henc⟩ := decodeControl_wf ((decode_controlSpace hres hsp).symm.trans h)
    rw [hrw] at hword ⊢
    exact ⟨hwf, henc.trans (congrArg (Transaction.mk · 0) hword)⟩
  · rw [decode_reservedSpace hres hsp] at h
    cases h

end Sys2Proof

/-! Which words are refused (R108), and that the decoder follows the opcode table (R103). -/

namespace Sys2Proof

open Sys2Proof.Machine (setBits)

/-! ### The decoder's ranges in numbers -/

theorem cpuPort_iff (a : Addr) : a &&& 0xE000#16 = 0x2000#16 ↔ 0x2000 ≤ a.toNat ∧ a.toNat < 0x4000 := by
  rw [mask13, show (0x2000#16).toNat = 0x2000 from rfl]
  omega

theorem ramAddr_iff (a : Addr) : ramAddr a = true ↔ 0x6000 ≤ a.toNat ∧ a.toNat < 0x8000 := by
  rw [ramAddr, beq_iff_eq, mask13, show (0x6000#16).toNat = 0x6000 from rfl]
  omega

theorem prgAddr_iff (a : Addr) : prgAddr a = true ↔ 0x8000 ≤ a.toNat := by
  have := a.isLt
  rw [prgAddr, beq_iff_eq, mask15, show (0x8000#16).toNat = 0x8000 from rfl]
  omega

theorem chrAddr_iff (a : Addr) : chrAddr a = true ↔ a.toNat < 0x2000 := by
  rw [chrAddr, beq_iff_eq, mask13, show (0x0000#16).toNat = 0 from rfl]
  omega

theorem palAddr_iff (a : Addr) : palAddr a = true ↔ 0x3F00 ≤ a.toNat ∧ a.toNat < 0x4000 := by
  rw [palAddr, beq_iff_eq, mask8, show (0x3F00#16).toNat = 0x3F00 from rfl]
  omega

theorem ntAddr_iff (a : Addr) : ntAddr a = true ↔ 0x2000 ≤ a.toNat ∧ a.toNat < 0x3F00 := by
  rw [ntAddr, Bool.and_eq_true, beq_iff_eq, cpuPort_iff, Bool.not_eq_true', Bool.eq_false_iff, ne_eq, palAddr_iff]
  omega

/-! ### The words each space refuses -/

theorem decodeMapperWrite_error_iff (mid : Byte) (a : Addr) (d : Byte) :
    (∃ e, decodeMapperWrite mid a d = .error e) ↔ 5 ≤ mid.toNat := by
  rw [decodeMapperWrite]
  rcases mid.toNat with _ | _ | _ | _ | _ | k <;> simp

theorem decodeHook_error_iff (mid : Byte) : (∃ e, decodeHook mid = .error e) ↔ 5 ≤ mid.toNat := by
  rw [decodeHook]
  rcases mid.toNat with _ | _ | _ | _ | _ | k <;> simp

/-- The CPU space refuses the addresses outside the block, and a PRG write of a MAPPER_ID no variant has. -/
theorem decodeCpu_error_iff (mid : Byte) (rw : Bool) (a : Addr) (d : Byte) :
    (∃ e, decodeCpu mid rw a d = .error e) ↔
      (a.toNat < 0x2000 ∨ 0x4000 ≤ a.toNat ∧ a.toNat < 0x6000)
        ∨ rw = true ∧ 0x8000 ≤ a.toNat ∧ 5 ≤ mid.toNat := by
  rw [decodeCpu]
  simp only [cpuPort_iff, ramAddr_iff, prgAddr_iff]
  split_ifs with hport hram hprg hwrite
  · simp only [exists_false, false_iff]; omega
  · simp only [exists_false, false_iff]; omega
  · rw [decodeMapperWrite_error_iff]; simp only [hwrite, true_and]; omega
  · simp only [exists_false, hwrite, Bool.false_eq_true, false_and, or_false, false_iff]; omega
  · simp only [Except.error.injEq, exists_eq', true_iff]; omega

/-- The PPU space refuses an address beyond 14 bits. -/
theorem decodePpu_error_iff (rw : Bool) (a : Addr) (d : Byte) :
    (∃ e, decodePpu rw a d = .error e) ↔ 0x4000 ≤ a.toNat := by
  rw [decodePpu]
  simp only [chrAddr_iff, palAddr_iff, ntAddr_iff]
  split_ifs with hchr hpal hnt
  · simp only [exists_false, false_iff]; omega
  · simp only [exists_false, false_iff]; omega
  · simp only [exists_false, false_iff]; omega
  · simp only [Except.error.injEq, exists_eq', true_iff]; omega

/-- The control space refuses a write, an operation of 3 or more, and the hook of a MAPPER_ID no variant has. -/
theorem decodeControl_error_iff (mid : Byte) (rw : Bool) (op : Addr) :
    (∃ e, decodeControl mid rw op = .error e) ↔
      (rw = true ∨ 3 ≤ op.toNat) ∨ op.toNat = 1 ∧ 5 ≤ mid.toNat := by
  rw [decodeControl]
  split_ifs with h
  · simp [h]
  · rcases op.toNat with _ | _ | _ | k <;> simp [h, decodeHook_error_iff]

/-! ### Refused words -/

theorem wordReservedZero_iff (w : Word) :
    wordReservedZero w = true ↔ w.extractLsb' 20 4 = 0#4 ∧ w.getLsbD 16 = false := by
  simp only [wordReservedZero, Bool.and_eq_true, beq_iff_eq, Bool.not_eq_true']

/-- Settles O4: a reserved bit is refused before the space is read; each other clause is refused by its space. -/
theorem reservedWordsRefused : Obligations.ReservedWordsRefused := by
  intro x h
  cases hres : wordReservedZero x.word with
  | false => exact ⟨_, decode_reservedBits hres⟩
  | true =>
    obtain ⟨hhigh, hbit⟩ := (wordReservedZero_iff _).1 hres
    obtain h | h | hsp | ⟨hsp, haddr⟩ | ⟨hsp, haddr⟩ | ⟨hsp, hop⟩ := h
    · exact absurd hhigh h
    · cases hbit.symm.trans h
    · exact ⟨_, decode_reservedSpace hres hsp⟩
    · rw [decode_cpuSpace hres hsp]
      exact (decodeCpu_error_iff ..).2 (.inl haddr)
    · rw [decode_ppuSpace hres hsp]
      exact (decodePpu_error_iff ..).2 haddr
    · rw [decode_controlSpace hres hsp]
      exact (decodeControl_error_iff ..).2 (.inl hop)

/-! ### The words of a row -/

/-- The greatest word a row can hit: its unmasked bits all set (R103). -/
def Row.last (r : Row) : Word := r.pattern ||| ~~~r.mask

theorem Row.hits_iff {r : Row} {w : Word} : r.hits w = true ↔ w &&& r.mask = r.pattern := by
  rw [Row.hits, beq_iff_eq]

/-- A word that a row hits has no bit that the row's greatest word lacks. -/
theorem or_last_of_hits {r : Row} {w : Word} (h : r.hits w = true) : w ||| r.last = r.last := by
  rw [Row.last, ← Row.hits_iff.1 h]
  ext k hk
  simp only [BitVec.getElem_or, BitVec.getElem_and, BitVec.getElem_not]
  cases w[k] <;> simp

/-- Every field of a word lies between those of the least and the greatest word of a row that hits it. -/
theorem field_between {r : Row} {w : Word} (h : r.hits w = true) (k n : Nat) :
    (r.pattern.extractLsb' k n).toNat ≤ (w.extractLsb' k n).toNat
      ∧ (w.extractLsb' k n).toNat ≤ (r.last.extractLsb' k n).toNat := by
  constructor
  · rw [← Row.hits_iff.1 h, BitVec.extractLsb'_and, BitVec.toNat_and]
    exact Nat.and_le_left
  · rw [← or_last_of_hits h, BitVec.extractLsb'_or, BitVec.toNat_or]
    exact Nat.left_le_or

theorem wordAddr_between {r : Row} {w : Word} (h : r.hits w = true) :
    (wordAddr r.pattern).toNat ≤ (wordAddr w).toNat ∧ (wordAddr w).toNat ≤ (wordAddr r.last).toNat :=
  field_between h 0 16

theorem wordMapper_le_last {r : Row} {w : Word} (h : r.hits w = true) :
    (wordMapper w).toNat ≤ (wordMapper r.last).toNat :=
  (field_between h 24 8).2

/-- Every row fixes the space of its words (R100). -/
theorem wordSpace_of_hits {r : Row} {w : Word} (hr : r ∈ allRows) (h : r.hits w = true) :
    wordSpace w = wordSpace r.pattern := by
  have hfix : ∀ r ∈ allRows, wordSpace r.last = wordSpace r.pattern := by decide
  obtain ⟨hlo, hhi⟩ := field_between h 18 2
  have hlast := congrArg BitVec.toNat (hfix r hr)
  exact BitVec.eq_of_toNat_eq (Nat.le_antisymm (hhi.trans hlast.le) hlo)

/-- Every row fixes the direction of its words (R100). -/
theorem wordWrite_of_hits {r : Row} {w : Word} (hr : r ∈ allRows) (h : r.hits w = true) :
    wordWrite w = wordWrite r.pattern := by
  have hfix : ∀ r ∈ allRows, r.mask.getLsbD 17 = true := by decide
  rw [← Row.hits_iff.1 h, wordWrite, wordWrite, BitVec.getLsbD_and, hfix r hr, Bool.and_true]

/-! ### The ranges of the table -/

/-- The CPU rows lie in the ports and above the RAM window's start, their PRG writes in one of the five mappers
(R104, R105). -/
theorem cpuRow_ranges : ∀ r ∈ allRows, wordSpace r.pattern = 0#2 →
    (0x2000 ≤ (wordAddr r.pattern).toNat ∧ (wordAddr r.last).toNat < 0x4000 ∨ 0x6000 ≤ (wordAddr r.pattern).toNat)
      ∧ (wordWrite r.pattern = true → 0x8000 ≤ (wordAddr r.last).toNat → (wordMapper r.last).toNat < 5) := by
  decide

theorem ppuRow_ranges : ∀ r ∈ allRows, wordSpace r.pattern = 1#2 → (wordAddr r.last).toNat < 0x4000 := by
  decide

/-- The control rows are reads of operations 0 to 2, operation 1 in one of the five mappers (R107). -/
theorem controlRow_ranges : ∀ r ∈ allRows, wordSpace r.pattern = 2#2 →
    wordWrite r.pattern = false ∧ (wordAddr r.last).toNat < 3
      ∧ ((wordAddr r.pattern).toNat ≤ 1 → 1 ≤ (wordAddr r.last).toNat → (wordMapper r.last).toNat < 5) := by
  decide

theorem row_space_ne_three : ∀ r ∈ allRows, wordSpace r.pattern ≠ 3#2 := by
  decide

/-- A word that some row hits is refused by no space (R103, R108). -/
theorem decode_ne_error_of_hits {x : Transaction} {r : Row} (hr : r ∈ allRows) (h : r.hits x.word = true)
    (e : Reject) : decode x ≠ .error e := by
  intro he
  have hres := hits_reserved x.word r hr h
  have hspace := wordSpace_of_hits hr h
  have hwrite := wordWrite_of_hits hr h
  obtain ⟨hlo, hhi⟩ := wordAddr_between h
  have hmapper := wordMapper_le_last h
  obtain hsp | hsp | hsp | hsp := wordSpace_cases x.word <;> rw [hsp] at hspace
  · obtain ⟨haddr, hprg⟩ := cpuRow_ranges r hr hspace.symm
    obtain hout | ⟨hrw, hwin, hmid⟩ := (decodeCpu_error_iff ..).1 ⟨e, (decode_cpuSpace hres hsp).symm.trans he⟩
    · omega
    · have := hprg (hwrite.symm.trans hrw) (by omega)
      omega
  · have := ppuRow_ranges r hr hspace.symm
    have := (decodePpu_error_iff ..).1 ⟨e, (decode_ppuSpace hres hsp).symm.trans he⟩
    omega
  · obtain ⟨hread, hops, hhook⟩ := controlRow_ranges r hr hspace.symm
    obtain (hrw | hop) | ⟨hop, hmid⟩ :=
      (decodeControl_error_iff ..).1 ⟨e, (decode_controlSpace hres hsp).symm.trans he⟩
    · cases hrw.symm.trans (hwrite.trans hread)
    · omega
    · have := hhook (by omega) (by omega)
      omega
  · exact row_space_ne_three r hr hspace.symm

/-! ### The longest row -/

/-- Rows that hit one word agree where both their masks are set. -/
theorem patterns_agree {r q : Row} {w : Word} (hr : r.hits w = true) (hq : q.hits w = true) :
    q.pattern &&& r.mask = r.pattern &&& q.mask := by
  rw [← Row.hits_iff.1 hr, ← Row.hits_iff.1 hq, BitVec.and_assoc, BitVec.and_assoc, BitVec.and_comm q.mask]

/-- The palette rows: they alone share words with rows of fewer mask bits, those of the nametables (R103, R106). -/
def palRows : List Row := [(Instr.palR 0).row, (Instr.palW 0 0).row]

theorem palRow_fields : ∀ r ∈ palRows, r ∈ allRows ∧ wordSpace r.pattern = 1#2
    ∧ 0x3F00 ≤ (wordAddr r.pattern).toNat ∧ (wordAddr r.last).toNat < 0x4000
    ∧ r = if wordWrite r.pattern then (Instr.palW 0 0).row else (Instr.palR 0).row := by
  decide

/-- A word that a palette row hits decodes to that row (R103, R106). -/
theorem row_eq_of_palRow_hits {x : Transaction} {i : Instr} {r : Row} (hr : r ∈ palRows) (h : r.hits x.word = true)
    (hdec : decode x = .ok i) : r = i.row := by
  obtain ⟨hmem, hspace, hpal, hend, hrow⟩ := palRow_fields r hr
  obtain ⟨hlo, hhi⟩ := wordAddr_between h
  have ha : palAddr (wordAddr x.word) = true := (palAddr_iff _).2 (by omega)
  rw [decode_ppuSpace (hits_reserved x.word r hmem h) ((wordSpace_of_hits hmem h).trans hspace),
    decodePpu_pal _ _ ha] at hdec
  rw [hrow, ← Except.ok.inj hdec, ← wordWrite_of_hits hmem h]
  cases wordWrite x.word <;> rfl

/-- A row outside the palette that can share a word with a second row is that row or has fewer mask bits. -/
theorem setBits_lt_of_agree : ∀ r ∈ allRows, r ∉ palRows → ∀ q ∈ allRows,
    q.pattern &&& r.mask = r.pattern &&& q.mask → r = q ∨ setBits r.mask < setBits q.mask := by
  decide

open Laws.RowMatch in
/-- The word of a well-formed instruction is of the instruction's own row (R103). -/
theorem row_hits_encode (i : Instr) : Statement i := by
  cases i
  exacts [ppuCtrlW _ _, ppuMaskW _ _, ppuStatusW _ _, oamAddrW _ _, oamDataW _ _, ppuScrollW _ _, ppuAddrW _ _,
    ppuDataW _ _, ppuCtrlR _, ppuMaskR _, ppuStatusR _, oamAddrR _, oamDataR _, ppuScrollR _, ppuAddrR _,
    ppuDataR _, prgR _, ramR _, ramW _ _, nromPrgW _ _, uxromBankW _ _, cnromBankW _ _, mmc1ControlW _ _,
    mmc1Chr0W _ _, mmc1Chr1W _ _, mmc1PrgW _ _, mmc3BankSelectW _ _, mmc3BankDataW _ _, mmc3MirroringW _ _,
    mmc3RamProtectW _ _, mmc3IrqLatchW _ _, mmc3IrqReloadW _ _, mmc3IrqDisableW _ _, mmc3IrqEnableW _ _, chrR _,
    chrW _ _, ntR _, ntW _ _, palR _, palW _ _, tick, reset, nromHook, mmc1Hook, uxromHook, cnromHook, mmc3Hook]

/-- Settles O3: the decoded row hits the word because it hits its own encoding, and a second row that hits it is
either a palette row, which the decoder would have taken, or has fewer mask bits. -/
theorem decodeFollowsTable : Obligations.DecodeFollowsTable := by
  intro x
  refine ⟨fun i hdec => ?_, fun e he r hr => ?_⟩
  · obtain ⟨hwf, henc⟩ := encodeOfDecode x i hdec
    have hown : i.row.hits x.word = true := by
      have h := row_hits_encode i hwf (wordMapper x.word)
      rwa [henc] at h
    refine ⟨row_mem i, hown, fun r hr hhit => ?_⟩
    by_cases hpal : r ∈ palRows
    · exact .inl (row_eq_of_palRow_hits hpal hhit hdec)
    · exact setBits_lt_of_agree r hr hpal i.row (row_mem i) (patterns_agree hhit hown)
  · exact Bool.eq_false_of_not_eq_true fun hhit => decode_ne_error_of_hits hr hhit e he

end Sys2Proof

/-! The PPU ports (R130 to R136, R140 to R148): the register of each write, and what a read returns. -/

namespace Sys2Proof.Machine

/-! ### Control, mask and the OAM address -/

/-- Settles O11: the nametable field of `control` reaches `t` as the mask of R130. -/
theorem ppuctrlWrite : Obligations.PpuctrlWrite := by
  intro s a d
  rw [← withNametable_eq]
  rfl

/-- Settles O12: each write is the update of its one register, and PPUSTATUS has none. -/
theorem plainPortWrites : Obligations.PlainPortWrites := fun _ _ _ => ⟨rfl, rfl, rfl⟩

/-! ### OAM data -/

/-- An OAM write writes its byte and no other (R134). -/
theorem writeOamData_bytes (s : State) (d : Byte) (hw : Memory.wf s.ppu.oam) :
    byteAt (writeOamData d s) .oam s.ppu.oamAddr.toNat = d
      ∧ SameBytesBut .oam s.ppu.oamAddr.toNat s (writeOamData d s) := by
  refine ⟨by simp [byteAt, State.memory, writeOamData, memRead_memWrite _ _ _ hw], fun k x hk => ?_⟩
  cases k with
  | oam => exact memRead_memWrite_other _ _ _ _ fun e => hk ⟨rfl, e⟩
  | nt | pal | prg | chr | ram => rfl

/-- The step of the OAM address in numbers (R134). -/
theorem add_one_eq_ofNat (x : Byte) : x + 1#8 = BitVec.ofNat 8 ((x.toNat + 1) % 256) := by
  apply BitVec.eq_of_toNat_eq
  simp

theorem exec_oamDataW (a : Addr) (d : Byte) (s : State) :
    exec (.oamDataW a d) s = .next (complete (writeOamData d s)) := rfl

/-- Settles O13: the write changes the byte at `oam_addr` only. -/
theorem oamdataWrite : Obligations.OamdataWrite := by
  intro s a d hwf
  obtain ⟨hbyte, hrest⟩ := writeOamData_bytes s d hwf
  refine ⟨_, exec_oamDataW a d s, ?_, hbyte, sameBytesBut_complete.2 hrest⟩
  rw [← add_one_eq_ofNat]
  rfl

/-- Settles O19: the byte at `oam_addr` is returned, and `oam_addr` stays. -/
theorem oamdataRead : Obligations.OamdataRead := fun _ _ => rfl

/-! ### The two-write ports -/

theorem exec_ppuScrollW (a : Addr) (d : Byte) (s : State) :
    exec (.ppuScrollW a d) s = .next (complete (setPpu (scrollWritten d s.ppu) s)) := rfl

theorem exec_ppuAddrW (a : Addr) (d : Byte) (s : State) :
    exec (.ppuAddrW a d) s = .next (complete (setPpu (addrWritten d s.ppu) s)) := rfl

/-- The fine scroll of a data byte as a mask (R135). -/
theorem extract_low3_eq (d : Byte) : d.extractLsb' 0 3 = (d &&& 7#8).setWidth 3 := by
  apply BitVec.eq_of_getLsbD_eq
  intro i hi
  interval_cases i <;> simp

theorem scrollWritten_first (d : Byte) {p : Ppu} (h : p.w = false) :
    scrollWritten d p =
      { p with fineX := d.extractLsb' 0 3, t := withCoarseX p.t (d.extractLsb' 3 5), w := true } :=
  if_neg (by simp [h])

theorem scrollWritten_second (d : Byte) {p : Ppu} (h : p.w = true) :
    scrollWritten d p =
      { p with t := withCoarseY (withFineY p.t (d.extractLsb' 0 3)) (d.extractLsb' 3 5), w := false } :=
  if_pos h

theorem addrWritten_first (d : Byte) {p : Ppu} (h : p.w = false) :
    addrWritten d p = { p with t := withAddrHigh p.t d, w := true } :=
  if_neg (by simp [h])

theorem addrWritten_second (d : Byte) {p : Ppu} (h : p.w = true) :
    addrWritten d p = { p with t := withAddrLow p.t d, v := withAddrLow p.t d, w := false } :=
  if_pos h

/-- Settles O14: X under a clear toggle, Y under a set one, each field as its mask. -/
theorem ppuscrollWrite : Obligations.PpuscrollWrite := by
  intro s a d
  refine ⟨fun hw => ?_, fun hw => ?_⟩
  · rw [exec_ppuScrollW, scrollWritten_first d hw, withCoarseX_eq, extract_low3_eq]
    rfl
  · rw [exec_ppuScrollW, scrollWritten_second d hw, withFineCoarseY_eq]
    rfl

/-- Settles O15: the high byte under a clear toggle, the low byte and the copy to `v` under a set one. -/
theorem ppuaddrWrite : Obligations.PpuaddrWrite := by
  intro s a d
  refine ⟨fun hw => ?_, fun hw => ?_⟩
  · rw [exec_ppuAddrW, addrWritten_first d hw, withAddrHigh_eq]
    rfl
  · rw [exec_ppuAddrW, addrWritten_second d hw, withAddrLow_eq]
    rfl

/-! ### Open bus and the status -/

/-- Settles O17: each of the five reads is the read of the open bus. -/
theorem openBusReads : Obligations.OpenBusReads := by
  intro s a i hi
  simp only [List.mem_cons, List.not_mem_nil, or_false] at hi
  obtain rfl | rfl | rfl | rfl | rfl := hi <;> rfl

/-- The three flags of a status byte, and its free bits (R132). -/
theorem statusByte_bits (st : Status) (draw : Byte) :
    (statusByte st draw).getLsbD 7 = st.verticalBlank ∧ (statusByte st draw).getLsbD 6 = st.spriteZeroHit
      ∧ (statusByte st draw).getLsbD 5 = st.spriteOverflow
      ∧ ∀ k, k < 5 → (statusByte st draw).getLsbD k = draw.getLsbD k := by
  simp only [statusByte, BitVec.getLsbD_append]
  exact ⟨by simp, by simp, by simp, fun k hk => by simp [hk]⟩

/-- Settles O18: the byte returned is the status byte over the free value. -/
theorem ppustatusRead : Obligations.PpustatusRead := fun s _ =>
  ⟨statusByte s.ppu.status (drawn s), rfl, statusByte_bits s.ppu.status (drawn s)⟩

end Sys2Proof.Machine

/-! PPUDATA (R137 to R139): the access of the PPU bus at `v[13:0]`, region by region, then the step of `v`. -/

namespace Sys2Proof.Machine

theorem stepV_eq (s : State) : stepV s = setPpu { s.ppu with v := nextV s } s := by
  rw [stepV, nextV_eq]

/-- The step of `v` moves no byte of a memory. -/
@[simp] theorem byteAt_stepV (s : State) (k : Space) (a : Nat) : byteAt (stepV s) k a = byteAt s k a :=
  byteAt_setPpu _ s k a rfl rfl rfl

theorem sameBytesBut_stepV {k : Space} {a : Nat} {s t : State} :
    SameBytesBut k a s (stepV t) ↔ SameBytesBut k a s t := by
  simp only [SameBytesBut, byteAt_stepV]

/-! ### The write of the PPU itself -/

theorem ppuBusWrite_chr {s : State} {b : PpuAddr} (d : Byte) (h : b.toNat ≤ 0x1FFF) :
    ppuBusWrite b d s = chrWrite b.toNat d s :=
  if_pos h

theorem ppuBusWrite_nt {s : State} {b : PpuAddr} (d : Byte) (hlo : 0x2000 ≤ b.toNat) (hhi : b.toNat ≤ 0x3EFF) :
    ppuBusWrite b d s = .ok (ntWrite b d s) := by
  rw [ppuBusWrite, if_neg (by omega), if_pos hhi]

theorem ppuBusWrite_pal {s : State} {b : PpuAddr} (d : Byte) (hlo : 0x3F00 ≤ b.toNat) :
    ppuBusWrite b d s = .ok (palWrite b d s) := by
  rw [ppuBusWrite, if_neg (by omega), if_neg (by omega)]

/-! ### PPUDATA writes -/

/-- A bus write that completes is followed by the step of `v` (R137). -/
theorem exec_ppuDataW_of_ok {s u : State} {d : Byte} (a : Addr)
    (h : ppuBusWrite (s.ppu.v.setWidth 14) d s = .ok u) :
    exec (.ppuDataW a d) s = .next (complete (stepV u)) := by
  rw [← busAddr_eq] at h
  simp only [exec, execPpuDataW, writeData, h, Except.map, settle]

/-- A bus write that faults ends the transaction (R137). -/
theorem exec_ppuDataW_of_error {s : State} {d : Byte} {f : Fault} (a : Addr)
    (h : ppuBusWrite (s.ppu.v.setWidth 14) d s = .error f) :
    exec (.ppuDataW a d) s = .fault f := by
  rw [← busAddr_eq] at h
  simp only [exec, execPpuDataW, writeData, h, Except.map, settle, raise]

/-- The byte a bus write leaves is what PPUDATA leaves: the step of `v` and the outcome move no byte. -/
theorem writtenByte_after {k : Space} {n : Nat} {d : Byte} {s u : State}
    (h : byteAt u k n = d ∧ SameBytesBut k n s u) :
    byteAt (complete (stepV u)) k n = d ∧ SameBytesBut k n s (complete (stepV u)) := by
  obtain ⟨hbyte, hrest⟩ := h
  exact ⟨by rw [byteAt_complete, byteAt_stepV, hbyte], sameBytesBut_complete.2 (sameBytesBut_stepV.2 hrest)⟩

/-- Settles O16: region by region, the bus write with the bytes it leaves, then the step of `v`. -/
theorem ppudataWrite : Obligations.PpudataWrite := by
  intro s a d hs hmem b
  obtain ⟨-, hnt, hpal, -, hchr, -⟩ := hmem
  refine ⟨fun hlo => ?_, fun hlo hhi => ?_, fun hb hstore => ?_, fun hb hrom hignore => ?_,
    fun hb hrom hfault => ?_⟩
  · refine ⟨_, exec_ppuDataW_of_ok a (ppuBusWrite_pal d hlo), ?_, writtenByte_after (palWrite_bytes s b d hpal)⟩
    rw [stepV_eq]; rfl
  · refine ⟨_, exec_ppuDataW_of_ok a (ppuBusWrite_nt d hlo hhi), ?_, writtenByte_after (ntWrite_bytes s b d hnt)⟩
    rw [stepV_eq]; rfl
  · obtain ⟨bank, j, hbank, hwrite⟩ := chrWrite_store s b.toNat d hs hb hstore
    refine ⟨bank, j, _, hbank, exec_ppuDataW_of_ok a ((ppuBusWrite_chr d hb).trans hwrite), ?_,
      writtenByte_after (chrStore_bytes s _ _ d hchr rfl rfl rfl rfl rfl rfl)⟩
    rw [stepV_eq]; rfl
  · have hwrite := chrWrite_ignore s b.toNat d hs hb hrom hignore
    rw [exec_ppuDataW_of_ok a ((ppuBusWrite_chr d hb).trans hwrite), stepV_eq]; rfl
  · have hwrite := chrWrite_fault s b.toNat d hs hb hrom hfault
    exact exec_ppuDataW_of_error a ((ppuBusWrite_chr d hb).trans hwrite)

/-! ### PPUDATA reads -/

/-- Below the palette the read returns the buffer, which takes the byte on the bus (R139). -/
theorem exec_ppuDataR_delayed {s : State} {byte : Byte} (a : Addr) (hb : (s.ppu.v.setWidth 14).toNat ≤ 0x3EFF)
    (h : ppuBusRead s (s.ppu.v.setWidth 14) = .ok byte) :
    exec (.ppuDataR a) s =
      .next (returnByte s.ppu.readBuffer (setPpu { s.ppu with readBuffer := byte, v := nextV s } s)) := by
  rw [← busAddr_eq] at h hb
  simp only [exec, execPpuDataR, readData, if_pos hb, h, settle, stepV_eq]
  rfl

/-- In the palette the read returns the palette byte at once (R139). -/
theorem exec_ppuDataR_palette {s : State} (a : Addr) (hb : 0x3F00 ≤ (s.ppu.v.setWidth 14).toNat) :
    exec (.ppuDataR a) s =
      .next (returnByte (palRead s (s.ppu.v.setWidth 14))
        (setPpu { s.ppu with readBuffer := bufferAfterPalette s (s.ppu.v.setWidth 14), v := nextV s } s)) := by
  rw [← busAddr_eq] at hb ⊢
  have hpal : ¬ (busAddr s.ppu.v).toNat ≤ 0x3EFF := by omega
  simp only [exec, execPpuDataR, readData, if_neg hpal, settle, stepV_eq]
  rfl

/-- The nametable address behind a palette address (R139). -/
theorem underlyingAddr_eq {b : PpuAddr} (h : 0x3F00 ≤ b.toNat) :
    b - 0x1000#14 = BitVec.ofNat 14 (b.toNat - 0x1000) := by
  bv_omega

/-- Settles O20: the bus read of the region fills the buffer below the palette; in the palette the policy does. -/
theorem ppudataRead : Obligations.PpudataRead := by
  intro s a hs b
  refine ⟨fun hb => ?_, fun hlo hhi => ?_, fun hlo => ?_⟩
  · obtain ⟨bank, j, hbank, -, -, hread⟩ := chrRead_ok s b.toNat hs hb
    exact ⟨bank, j, hbank, exec_ppuDataR_delayed a (hb.trans (by decide)) ((ppuBusRead_chr hb).trans hread)⟩
  · exact exec_ppuDataR_delayed a hhi (ppuBusRead_nt hlo hhi)
  · rw [exec_ppuDataR_palette a hlo, bufferAfterPalette, underlyingAddr_eq hlo]
    rfl

end Sys2Proof.Machine

/-! Every mirror of the eight ports reaches its port function (R143, R341). -/

namespace Sys2Proof.Machine

/-- The port index of an address in numbers (R143). -/
theorem portIndex_toNat (a : Addr) : (a.extractLsb' 0 3).toNat = a.toNat % 8 := by
  simp

/-- The row of a port write is the port function at the row's index (R104, R143). -/
theorem exec_decodePortWrite (a : Addr) (d : Byte) (s : State) :
    exec (decodePortWrite a d) s = settle (portWrite (a.extractLsb' 0 3).toNat d s) := by
  have hlt := (a.extractLsb' 0 3).isLt
  rw [decodePortWrite]
  generalize (a.extractLsb' 0 3).toNat = p at *
  interval_cases p <;> rfl

/-- The row of a port read is the port function at the row's index (R104, R143). -/
theorem exec_decodePortRead (a : Addr) (s : State) :
    exec (decodePortRead a) s = settle (portRead (a.extractLsb' 0 3).toNat s) := by
  have hlt := (a.extractLsb' 0 3).isLt
  rw [decodePortRead]
  generalize (a.extractLsb' 0 3).toNat = p at *
  interval_cases p <;> rfl

/-- An address of the port window decodes to the row of its port (R104). -/
theorem decodeCpu_port {a : Addr} (mid d : Byte) (rw : Bool) (hlo : 0x2000 ≤ a.toNat) (hhi : a.toNat < 0x4000) :
    decodeCpu mid rw a d = .ok (if rw then decodePortWrite a d else decodePortRead a) := by
  rw [decodeCpu, if_pos ((cpuPort_iff a).2 ⟨hlo, hhi⟩)]

theorem portWrite_of_ge {p : Nat} (d : Byte) (s : State) (hp : 8 ≤ p) :
    portWrite p d s = .error (.unsupportedPpuPort p) := by
  obtain ⟨n, rfl⟩ := Nat.exists_eq_add_of_le' hp
  rfl

theorem portRead_of_ge {p : Nat} (s : State) (hp : 8 ≤ p) : portRead p s = .error (.unsupportedPpuPort p) := by
  obtain ⟨n, rfl⟩ := Nat.exists_eq_add_of_le' hp
  rfl

/-- Settles O21: the window decodes to the row of `addr[2:0]`, and each row is the port function at its index. -/
theorem portDispatch : Obligations.PortDispatch := by
  refine ⟨fun s mid a d hlo hhi => ?_, fun s p d hp => ⟨portWrite_of_ge d s hp, portRead_of_ge s hp⟩⟩
  rw [← portIndex_toNat]
  exact ⟨⟨_, (decode_cpuWord ..).trans (decodeCpu_port mid d true hlo hhi), exec_decodePortWrite a d s⟩,
    ⟨_, (decode_cpuWord ..).trans (decodeCpu_port mid d false hlo hhi), exec_decodePortRead a s⟩⟩

end Sys2Proof.Machine

/-! The position of a tick and the length of a frame (R23, R160, R162, R163). -/

namespace Sys2Proof.Machine

/-! ### The advance -/

/-- The advance leaves the line: after dot 340, or at the dot before it where that is skipped (R162, R163). -/
abbrev LeavesLine (s : State) : Prop :=
  s.ppu.scanline = 261 ∧ s.ppu.dot = 339 ∧ s.ppu.frameOdd = true ∧ RenderingOn s ∨ s.ppu.dot = 340

theorem skipsDot_iff (s : State) :
    skipsDot s.ppu = true
      ↔ s.ppu.scanline = 261 ∧ s.ppu.dot = 339 ∧ s.ppu.frameOdd = true ∧ RenderingOn s := by
  simp only [skipsDot, Bool.and_eq_true, decide_eq_true_eq, rendering_iff, and_assoc]

theorem leavesLine_iff {s : State} (hpos : PositionOk s) :
    (skipsDot s.ppu = true ∨ 340 < s.ppu.dot + 1) ↔ LeavesLine s := by
  obtain ⟨-, hdot⟩ := hpos
  rw [skipsDot_iff]
  exact or_congr_right (by omega)

theorem advance_inLine {s : State} (hpos : PositionOk s) (h : ¬ LeavesLine s) :
    advance s.ppu = { s.ppu with dot := s.ppu.dot + 1 } := by
  rw [advance, if_neg (mt (leavesLine_iff hpos).1 h)]

theorem advance_nextLine {s : State} (hpos : PositionOk s) (h : LeavesLine s) (hl : s.ppu.scanline < 261) :
    advance s.ppu = { s.ppu with dot := 0, scanline := s.ppu.scanline + 1 } := by
  rw [advance, if_pos ((leavesLine_iff hpos).2 h), if_neg (by omega)]

theorem advance_nextFrame {s : State} (hpos : PositionOk s) (h : LeavesLine s) (hl : s.ppu.scanline = 261) :
    advance s.ppu = { s.ppu with dot := 0, scanline := 0, frameOdd := !s.ppu.frameOdd } := by
  rw [advance, if_pos ((leavesLine_iff hpos).2 h), if_pos (by omega)]

/-- Settles O43: a tick moves the position as the advance does, case by case. -/
theorem tickAdvance : Obligations.TickAdvance := by
  intro s hs hpos l d next
  obtain ⟨u, hexec, hu⟩ := execTick_ok s hs
  have f : TickFrame s u := tick_frame s u hu
  refine ⟨complete u, hexec, fun hn => ?_, fun hn hl => ?_, fun hn hl => ?_⟩ <;>
    rw [complete_ppu, f.scanline, f.dot, f.frameOdd]
  · rw [advance_inLine hpos hn]; exact ⟨rfl, rfl, rfl⟩
  · rw [advance_nextLine hpos hn hl]; exact ⟨rfl, rfl, rfl⟩
  · rw [advance_nextFrame hpos hn hl]; exact ⟨rfl, rfl, rfl⟩

/-! ### The ticks of a frame -/

/-- The ticks of the frame that the position is in (R163). -/
def frameTicks (s : State) : Nat := if s.ppu.frameOdd = true ∧ RenderingOn s then 89341 else 89342

/-- The ticks from the first position of the frame to this one: 341 to a line. -/
def elapsedTicks (s : State) : Nat := 341 * s.ppu.scanline + s.ppu.dot

/-- The last tick of a frame is the one that leaves line 261. -/
theorem isLastTick_iff {s : State} (hpos : PositionOk s) (hlt : elapsedTicks s < frameTicks s) :
    elapsedTicks s + 1 = frameTicks s ↔ LeavesLine s ∧ s.ppu.scanline = 261 := by
  obtain ⟨hline, hdot⟩ := hpos
  simp only [elapsedTicks, frameTicks, LeavesLine] at hlt ⊢
  split at hlt <;> rename_i hodd
  · rw [if_pos hodd]
    simp only [hodd, and_true]
    omega
  · rw [if_neg hodd]
    simp only [hodd, and_false, false_or]
    omega

/-- The last tick of a frame leads to the first position of the next (R162, R163). -/
theorem TickFrame.firstOfFrame {s t : State} (f : TickFrame s t) (hpos : PositionOk s)
    (hlast : elapsedTicks s + 1 = frameTicks s) :
    t.ppu.scanline = 0 ∧ t.ppu.dot = 0 ∧ t.ppu.frameOdd = !s.ppu.frameOdd := by
  obtain ⟨hleaves, hline⟩ := (isLastTick_iff hpos (by omega)).1 hlast
  rw [f.scanline, f.dot, f.frameOdd, advance_nextFrame hpos hleaves hline]
  exact ⟨rfl, rfl, rfl⟩

/-- Any other tick of a frame is one tick further in the same frame (R162). -/
theorem TickFrame.elapsedTicks_succ {s t : State} (f : TickFrame s t) (hpos : PositionOk s)
    (hlt : elapsedTicks s + 1 < frameTicks s) :
    elapsedTicks t = elapsedTicks s + 1 ∧ t.ppu.frameOdd = s.ppu.frameOdd := by
  have hlast := mt (isLastTick_iff hpos (by omega)).2 (by omega)
  simp only [elapsedTicks, f.scanline, f.dot, f.frameOdd]
  by_cases h : LeavesLine s
  · have hline : s.ppu.scanline < 261 := by
      have hne : s.ppu.scanline ≠ 261 := fun e => hlast ⟨h, e⟩
      omega
    have hdot : s.ppu.dot = 340 := h.resolve_left fun ⟨h261, _⟩ => hline.ne h261
    rw [advance_nextLine hpos h hline]
    exact ⟨by simp only; omega, rfl⟩
  · rw [advance_inLine hpos h]
    exact ⟨rfl, rfl⟩

/-- The ticks that remain of a frame lead to the first position of the next. -/
theorem execAll_remainingTicks (n : Nat) (s : State) (hs : StorageOk s) (hpos : PositionOk s)
    (hn : elapsedTicks s + (n + 1) = frameTicks s) :
    ∃ t, execAll (List.replicate (n + 1) .tick) s = .next t
      ∧ t.ppu.scanline = 0 ∧ t.ppu.dot = 0 ∧ t.ppu.frameOdd = !s.ppu.frameOdd := by
  induction n generalizing s with
  | zero =>
    obtain ⟨u, hexec, hu⟩ := execTick_ok s hs
    refine ⟨complete u, ?_, (tick_frame s u hu).firstOfFrame hpos hn⟩
    rw [List.replicate_one, execAll, hexec]
    rfl
  | succ n ih =>
    obtain ⟨u, hexec, hu⟩ := execTick_ok s hs
    have f : TickFrame s u := tick_frame s u hu
    obtain ⟨hsu, hmask⟩ := tick_keeps s u hs hu
    obtain ⟨helapsed, hodd⟩ := f.elapsedTicks_succ hpos (by omega)
    have hticks : frameTicks u = frameTicks s := by simp only [frameTicks, RenderingOn, hodd, hmask]
    have hposu : PositionOk u := f.invFrame.position hpos
    have hrest : elapsedTicks u + (n + 1) = frameTicks u := by omega
    rw [List.replicate_succ, execAll, hexec, ← hodd]
    exact ih (complete u) hsu hposu hrest

/-- Settles O55: all ticks of a frame remain at its first position. -/
theorem frameLength : Obligations.FrameLength := by
  intro s hs hline hdot ticks
  have hpos : PositionOk s := ⟨by omega, by omega⟩
  have hstart : elapsedTicks s = 0 := by rw [elapsedTicks, hline, hdot]
  have hticks : ∃ n, ticks = n + 1 := Nat.exists_eq_add_one.2 (by simp only [ticks]; split <;> omega)
  obtain ⟨n, hn⟩ := hticks
  rw [hn]
  exact execAll_remainingTicks n s hs hpos (by rw [hstart, Nat.zero_add]; exact hn.symm)

end Sys2Proof.Machine

/-! The status flags, the events and the scroll of a tick (R176 to R184). -/

namespace Sys2Proof.Machine

/-! ### The status flags -/

/-- Settles O45: the steps of a line leave the flags that the event step acts on, and `vertical_blank` starts on a line
that has no such steps. -/
theorem tickStatus : Obligations.TickStatus := by
  intro s hs
  obtain ⟨u, hexec, hu⟩ := execTick_ok s hs
  obtain ⟨st, hstatus, hblank, hoverflow, hhit, hhitKept, hoff⟩ := tick_status s u hu
  have hblankLine : s.ppu.scanline = 241 → ¬ OnRenderingLine s := fun hl => by simp only [OnRenderingLine]; omega
  refine ⟨complete u, hexec, fun hl hd => ?_, fun hl hd => ?_, fun hn => ?_, fun hclear hpixel => ?_⟩ <;>
    rw [complete_ppu, hstatus]
  · rw [if_pos ⟨hl, hd⟩]; rfl
  · rw [if_neg (by omega), if_pos ⟨hl, hd⟩, hoff (hblankLine hl)]; rfl
  · rw [if_neg (by omega), if_neg (by omega)]
    exact ⟨hblank, hoverflow, hhit⟩
  · rw [if_neg hclear]
    split <;> exact hhitKept hpixel

/-! ### The events and the hook -/

/-- The events of the clocked counter, in the bits of R321. -/
theorem eventsOfHook_mmc3 (r : Mmc3) :
    eventsOfHook (.mmc3 r) = if (clockIrq r).irqCounter = 0#8 ∧ r.irqEnabled = true then [.irq] else [] := by
  simp only [eventsOfHook, irqFires, Bool.and_eq_true, decide_eq_true_eq]
  rfl

/-- The hook of a variant other than MMC3 does nothing (R246). -/
theorem hook_of_not_mmc3 {m : Mapper} (h : ∀ r, m ≠ .mmc3 r) : mapperAfterHook m = m ∧ eventsOfHook m = [] := by
  cases m with
  | mmc3 r => exact absurd rfl (h r)
  | nrom | uxrom sel | cnrom sel | mmc1 r => exact ⟨rfl, rfl⟩

theorem eventsOfEvents_displayUpdate {p : Ppu} (hl : p.scanline = 240) (hd : p.dot = 0) :
    eventsOfEvents p = [.displayUpdate] := by
  rw [eventsOfEvents, if_neg (by omega), if_pos ⟨hl, hd⟩]

theorem eventsOfEvents_nmi {p : Ppu} (hl : p.scanline = 241) (hd : p.dot = 1) (hnmi : p.control.getLsbD 7 = true) :
    eventsOfEvents p = [.nmi] :=
  if_pos ⟨hl, hd, hnmi⟩

theorem eventsOfEvents_nil {p : Ppu} (hupdate : ¬ (p.scanline = 240 ∧ p.dot = 0))
    (hnmi : ¬ (p.scanline = 241 ∧ p.dot = 1 ∧ p.control.getLsbD 7 = true)) : eventsOfEvents p = [] :=
  (if_neg hnmi).trans (if_neg hupdate)

/-- Settles O46: the events of a tick are those of the pixel, of the event step and of the hook, and no two of the three
are at one position. -/
theorem tickEvents : Obligations.TickEvents := by
  intro s hs l d hook
  obtain ⟨u, hexec, hu⟩ := execTick_ok s hs
  have f : TickFrame s u := tick_frame s u hu
  obtain ⟨c, hevents⟩ := f.events
  have hdue : hookDue s.ppu ↔ hook := hookDue_iff s
  have hnoHook : d ≠ 260 → ¬ hookDue s.ppu := fun hd ⟨_, h260, _⟩ => hd h260
  have hatHook : hook → u.mapper = mapperAfterHook s.mapper
      ∧ u.events = s.events ++ .mapperHook :: eventsOfHook s.mapper := by
    intro hh
    have ⟨_, h260, _⟩ := hh
    refine ⟨by rw [f.mapper, if_pos (hdue.2 hh)], ?_⟩
    rw [hevents, if_neg (by omega), eventsOfEvents_nil (by omega) (by omega), if_pos (hdue.2 hh), List.append_nil,
      List.append_nil]
  refine ⟨complete u, hexec, fun hl h2 h257 => ⟨c, ?_⟩, fun hl hd => ?_, fun hl hd hnmi => ?_, fun hh hm => ?_,
    fun hh r hm => ?_, fun hh => ?_, fun hpixel hupdate hnmi hh => ?_⟩
  · rw [complete_events, hevents, if_pos ⟨hl, h2, h257⟩, eventsOfEvents_nil (by omega) (by omega),
      if_neg (hnoHook (by omega)), List.append_nil, List.append_nil]
  · rw [complete_events, hevents, if_neg (by omega), eventsOfEvents_displayUpdate hl hd, if_neg (hnoHook (by omega)),
      List.append_nil, List.append_nil]
  · rw [complete_events, hevents, if_neg (by omega), eventsOfEvents_nmi hl hd hnmi, if_neg (hnoHook (by omega)),
      List.append_nil, List.append_nil]
  · obtain ⟨hsame, hnone⟩ := hook_of_not_mmc3 hm
    rw [hsame, hnone] at hatHook
    exact hatHook hh
  · rw [hm, eventsOfHook_mmc3] at hatHook
    exact hatHook hh
  · rw [complete_mapper, f.mapper, if_neg (mt hdue.1 hh)]
  · rw [complete_events, hevents, if_neg hpixel, eventsOfEvents_nil hupdate hnmi, if_neg (mt hdue.1 hh),
      List.append_nil, List.append_nil, List.append_nil]

/-! ### The scroll -/

theorem copyHorizontal_eq (v t : Scroll) : copyHorizontal v t = (v &&& 0x7BE0#15) ||| (t &&& 0x041F#15) := rfl

theorem copyVertical_eq (v t : Scroll) : copyVertical v t = (v &&& 0x041F#15) ||| (t &&& 0x7BE0#15) := rfl

/-- Where `v` takes the coarse-x increment, in numbers (R176). -/
theorem coarseDot_iff (s : State) :
    (fetchDot s.ppu.dot = true ∧ s.ppu.dot % 8 = 0) ↔ OnFetchDot s ∧ s.ppu.dot % 8 = 0 :=
  and_congr_left' (fetchDot_iff s)

/-- Between the two runs of the micro-cycle no dot is a coarse-x dot (R165, R176). -/
theorem not_coarseDot {d : Nat} (hlo : 256 ≤ d) (hhi : d ≤ 321) : ¬ (fetchDot d = true ∧ d % 8 = 0) := by
  simp only [fetchDot, decide_eq_true_eq]
  omega

/-- Settles O47: `v` takes the scroll update of its dot on a rendering line with rendering on, and stays elsewhere. -/
theorem tickScroll : Obligations.TickScroll := by
  intro s hs v d live coarse vertical
  obtain ⟨u, hexec, hu⟩ := execTick_ok s hs
  have hv := (tick_frame s u hu).v
  have hlive : (renderingLine s.ppu.scanline = true ∧ rendering s.ppu.mask = true) ↔ live :=
    and_congr (renderingLine_iff s) (rendering_iff s)
  have hscrolled : live → u.ppu.v = scrolledV s.ppu := fun hl => hv.trans (if_pos (hlive.2 hl))
  have hcoarse := coarseDot_iff s
  refine ⟨complete u, hexec, fun hl hc => ?_, fun hl hd => ?_, fun hl hd => ?_, fun hl hd => ?_, fun hn => ?_⟩
  · rw [complete_ppu, hscrolled hl, scrolledV, if_pos (hcoarse.2 hc), incrementCoarseX_eq]
  · have hc := not_coarseDot (d := s.ppu.dot) (by omega) (by omega)
    rw [complete_ppu, hscrolled hl, scrolledV, if_neg hc, if_pos hd, incrementY_eq]
  · have hc := not_coarseDot (d := s.ppu.dot) (by omega) (by omega)
    rw [complete_ppu, hscrolled hl, scrolledV, if_neg hc, if_neg (by omega), if_pos hd, copyHorizontal_eq]
  · have hc := not_coarseDot (d := s.ppu.dot) (by omega) (by omega)
    rw [complete_ppu, hscrolled hl, scrolledV, if_neg hc, if_neg (by omega), if_neg (by omega), if_pos hd, copyVertical_eq]
  · by_cases hl : live
    · have hdot : ¬ (coarse ∨ d = 256 ∨ d = 257 ∨ vertical) := fun h => hn ⟨hl, h⟩
      simp only [not_or] at hdot
      obtain ⟨hc, h256, h257, hvert⟩ := hdot
      rw [complete_ppu, hscrolled hl, scrolledV, if_neg (mt hcoarse.1 hc), if_neg h256, if_neg h257, if_neg hvert]
    · exact hv.trans (if_neg (mt hlive.1 hl))

end Sys2Proof.Machine

/-! The background fetches of a tick, and the shift and the reload of its shifters (R164 to R175). -/

namespace Sys2Proof.Machine

/-! ### The shift -/

/-- The dots that generate a pixel, shown or not (R164, R167). -/
abbrev PixelDot (d : Nat) : Prop := (2 ≤ d ∧ d ≤ 257) ∨ (322 ≤ d ∧ d ≤ 337)

/-- The PPU after the pixel step of a rendering line, as far as its shifters go (R175). -/
def shiftedAt (d : Nat) (p : Ppu) : Ppu := if PixelDot d then shiftRegisters p else p

theorem pixelStep_shiftersKept (s : State) : ShiftersKept (shiftedAt s.ppu.dot s.ppu) (pixelStep s).ppu := by
  obtain ⟨st, h⟩ := pixelStep_shifters s
  rw [h, shiftedAt]
  split
  · exact ⟨rfl, rfl, rfl, rfl⟩
  · exact .refl _

theorem ShiftersKept.trans {p q r : Ppu} (h : ShiftersKept p q) (g : ShiftersKept q r) : ShiftersKept p r :=
  ⟨g.bgShiftLow.trans h.bgShiftLow, g.bgShiftHigh.trans h.bgShiftHigh, g.atShiftLow.trans h.atShiftLow,
    g.atShiftHigh.trans h.atShiftHigh⟩

theorem LatchesKept.trans {p q r : Ppu} (h : LatchesKept p q) (g : LatchesKept q r) : LatchesKept p r :=
  ⟨g.atFeedLow.trans h.atFeedLow, g.atFeedHigh.trans h.atFeedHigh, g.fetchAddr.trans h.fetchAddr,
    g.ntByte.trans h.ntByte, g.atByte.trans h.atByte, g.patternLow.trans h.patternLow,
    g.patternHigh.trans h.patternHigh⟩

/-- The shift reads the shifters and the feed bits only. -/
theorem shiftedAt_congr (d : Nat) {p q : Ppu} (hs : ShiftersKept p q) (hl : LatchesKept p q) :
    ShiftersKept (shiftedAt d p) (shiftedAt d q) := by
  obtain ⟨hbl, hbh, hal, hah⟩ := hs
  rw [shiftedAt, shiftedAt]
  split
  · constructor <;> simp only [shiftRegisters, hbl, hbh, hal, hah, hl.atFeedLow, hl.atFeedHigh]
  · exact ⟨hbl, hbh, hal, hah⟩

/-- The pattern shifters shifted, in numbers. -/
theorem shiftedAt_bgShift_toNat (d : Nat) (p : Ppu) :
    (shiftedAt d p).bgShiftLow.toNat =
        (if PixelDot d then p.bgShiftLow.toNat * 2 % 0x10000 else p.bgShiftLow.toNat)
      ∧ (shiftedAt d p).bgShiftHigh.toNat =
        (if PixelDot d then p.bgShiftHigh.toNat * 2 % 0x10000 else p.bgShiftHigh.toNat) := by
  rw [shiftedAt]
  split
  · exact ⟨shiftLeft_one_toNat _, shiftLeft_one_toNat _⟩
  · exact ⟨rfl, rfl⟩

/-- The shifters of `at_byte` shifted, with the feed bit entering at the right, in numbers. -/
theorem shiftedAt_atShift_toNat (d : Nat) (p : Ppu) :
    (shiftedAt d p).atShiftLow.toNat =
        (if PixelDot d then (p.atShiftLow.toNat * 2 + p.atFeedLow.toNat) % 0x100 else p.atShiftLow.toNat)
      ∧ (shiftedAt d p).atShiftHigh.toNat =
        (if PixelDot d then (p.atShiftHigh.toNat * 2 + p.atFeedHigh.toNat) % 0x100 else p.atShiftHigh.toNat) := by
  rw [shiftedAt]
  split
  · exact ⟨shiftConcat_toNat _ _, shiftConcat_toNat _ _⟩
  · exact ⟨rfl, rfl⟩

/-! ### The background step within a tick -/

theorem blockKept_setPpu (p : Ppu) (s : State) : BlockKept s (setPpu p s) := by constructor <;> rfl

/-- The scroll step moves no latch and no shifter (R176 to R179). -/
theorem scrollStep_kept (s : State) :
    LatchesKept s.ppu (scrollStep s).ppu ∧ ShiftersKept s.ppu (scrollStep s).ppu := by
  obtain ⟨v, h⟩ := scrollStep_ppu s
  rw [h]
  exact ⟨by constructor <;> rfl, by constructor <;> rfl⟩

/-- A tick from `s` to `t` on a rendering line, whose background step takes the state `u` to the PPU `q` (R164): that
step finds the latches, `v` and the bus as in `s` and the shifters shifted, and the rest of the tick leaves the latches
and the shifters as the step gave them. -/
structure LineTick (s t u : State) (q : Ppu) : Prop where
  exec : exec .tick s = .next t
  background : backgroundPpu u = .ok q
  latchesBefore : LatchesKept s.ppu u.ppu
  shiftersBefore : ShiftersKept (shiftedAt s.ppu.dot s.ppu) u.ppu
  v : u.ppu.v = s.ppu.v
  dot : u.ppu.dot = s.ppu.dot
  control : u.ppu.control = s.ppu.control
  bus : ∀ a, ppuBusRead u a = ppuBusRead s a
  atShiftLow : q.atShiftLow = u.ppu.atShiftLow
  atShiftHigh : q.atShiftHigh = u.ppu.atShiftHigh
  latchesAfter : LatchesKept q t.ppu
  shiftersAfter : ShiftersKept q t.ppu

theorem exists_lineTick (s : State) (hs : StorageOk s) (hl : OnRenderingLine s) : ∃ t u q, LineTick s t u q := by
  obtain ⟨p, q, -, hsprite, hpixel, hq, hback, hend, hexec⟩ := tick_line s hs hl
  have hblock : BlockKept s (pixelStep (setPpu p s)) := (blockKept_setPpu p s).trans hpixel.block
  have hshift := pixelStep_shiftersKept (setPpu p s)
  rw [setPpu_ppu, hsprite.position.dot] at hshift
  obtain ⟨hlatches, hshifters⟩ := scrollStep_kept (setPpu q (pixelStep (setPpu p s)))
  exact ⟨_, _, q,
    { exec := hexec
      background := hq
      latchesBefore := hsprite.latches.trans hpixel.latches
      shiftersBefore := (shiftedAt_congr _ hsprite.shifters hsprite.latches).trans hshift
      v := hpixel.v.trans hsprite.v
      dot := hpixel.position.dot.trans hsprite.position.dot
      control := hpixel.kept.control.trans hsprite.kept.control
      bus := fun a => ppuBusRead_congr _ _ a hblock hpixel.mapper (hsprite.kept.trans hpixel.kept)
      atShiftLow := hback.atShiftLow
      atShiftHigh := hback.atShiftHigh
      latchesAfter := hlatches.trans hend.latches
      shiftersAfter := hshifters.trans hend.shifters }⟩

/-- Settles O49: the background step reloads what the pixel step has shifted. -/
theorem tickShift : Obligations.TickShift := by
  intro s hs hl p d shifts reloads low high
  obtain ⟨t, u, q, h⟩ := exists_lineTick s hs hl
  have hreload := backgroundPpu_reload u q h.background
  simp only [OnFetchDot, h.dot, h.latchesBefore.patternLow, h.latchesBefore.patternHigh, h.latchesBefore.atByte,
    h.latchesBefore.atFeedLow, h.latchesBefore.atFeedHigh] at hreload
  obtain ⟨hlow, hhigh, hfeedLow, hfeedHigh⟩ := hreload
  obtain ⟨hbl, hbh, hal, hah⟩ := h.shiftersBefore
  obtain ⟨hlow', hhigh'⟩ := shiftedAt_bgShift_toNat d p
  obtain ⟨hal', hah'⟩ := shiftedAt_atShift_toNat d p
  refine ⟨t, h.exec, ?_, ?_, ?_, ?_, ?_, ?_⟩
  · rw [h.shiftersAfter.bgShiftLow, hlow, hbl, apply_ite BitVec.toNat, reload_toNat, hlow']
  · rw [h.shiftersAfter.bgShiftHigh, hhigh, hbh, apply_ite BitVec.toNat, reload_toNat, hhigh']
  · rw [h.shiftersAfter.atShiftLow, h.atShiftLow, hal, hal']
  · rw [h.shiftersAfter.atShiftHigh, h.atShiftHigh, hah, hah']
  · rw [h.latchesAfter.atFeedLow, hfeedLow]
  · rw [h.latchesAfter.atFeedHigh, hfeedHigh]

end Sys2Proof.Machine

/-! The background fetches of a tick, row by row of the table of R165 (R168 to R174). -/

namespace Sys2Proof.Machine

/-! ### All the background step can do -/

/-- The rows of the table of R165: each with its dots, and the PPU after it. -/
inductive BackgroundRow (s : State) : Ppu → Prop
  | ntAddr (hd : s.ppu.dot = 1 ∨ s.ppu.dot = 321 ∨ s.ppu.dot = 339) : BackgroundRow s (ntAddrStep s.ppu)
  | reloadNtAddr (hf : OnFetchDot s) (hk : s.ppu.dot % 8 = 1) : BackgroundRow s (ntAddrStep (reload s.ppu))
  | ntRead (b : Byte) (hd : (OnFetchDot s ∧ s.ppu.dot % 8 = 2) ∨ s.ppu.dot = 338 ∨ s.ppu.dot = 340)
      (hb : ppuBusRead s s.ppu.fetchAddr = .ok b) : BackgroundRow s { s.ppu with ntByte := b }
  | atAddr (hf : OnFetchDot s) (hk : s.ppu.dot % 8 = 3) : BackgroundRow s (atAddrStep s.ppu)
  | atRead (b : Byte) (hf : OnFetchDot s) (hk : s.ppu.dot % 8 = 4) (hb : ppuBusRead s s.ppu.fetchAddr = .ok b) :
      BackgroundRow s { s.ppu with atByte := quadrant s.ppu.v b }
  | patAddr (hf : OnFetchDot s) (hk : s.ppu.dot % 8 = 5) : BackgroundRow s (patAddrStep s.ppu)
  | patLow (b : Byte) (hf : OnFetchDot s) (hk : s.ppu.dot % 8 = 6) (hb : ppuBusRead s s.ppu.fetchAddr = .ok b) :
      BackgroundRow s { s.ppu with patternLow := b }
  | patHighAddr (hf : OnFetchDot s) (hk : s.ppu.dot % 8 = 7) : BackgroundRow s (patHighAddrStep s.ppu)
  | patHigh (b : Byte) (hd : (OnFetchDot s ∧ s.ppu.dot % 8 = 0) ∨ s.ppu.dot = 256)
      (hb : ppuBusRead s s.ppu.fetchAddr = .ok b) : BackgroundRow s { s.ppu with patternHigh := b }
  | reload (hd : s.ppu.dot = 257) : BackgroundRow s (reload s.ppu)
  | idle (hf : ¬ OnFetchDot s)
      (hd : ¬ (s.ppu.dot = 1 ∨ s.ppu.dot = 321 ∨ s.ppu.dot = 339 ∨ s.ppu.dot = 256 ∨ s.ppu.dot = 257
        ∨ s.ppu.dot = 338 ∨ s.ppu.dot = 340)) : BackgroundRow s s.ppu

/-- The eight rows of the micro-cycle. -/
theorem microCycle_row {s : State} {q : Ppu} {k : Nat} (hf : OnFetchDot s) (hk : s.ppu.dot % 8 = k)
    (h : microCycle k s = .ok q) : BackgroundRow s q := by
  have hlt : k < 8 := by omega
  interval_cases k
  · obtain ⟨b, hb, rfl⟩ := fetchInto_cases _ s q h; exact .patHigh b (.inl ⟨hf, hk⟩) hb
  · cases h; exact .reloadNtAddr hf hk
  · obtain ⟨b, hb, rfl⟩ := fetchInto_cases _ s q h; exact .ntRead b (.inl ⟨hf, hk⟩) hb
  · cases h; exact .atAddr hf hk
  · obtain ⟨b, hb, rfl⟩ := fetchInto_cases _ s q h; exact .atRead b hf hk hb
  · cases h; exact .patAddr hf hk
  · obtain ⟨b, hb, rfl⟩ := fetchInto_cases _ s q h; exact .patLow b hf hk hb
  · cases h; exact .patHighAddr hf hk

theorem backgroundPpu_row {s : State} {q : Ppu} (h : backgroundPpu s = .ok q) : BackgroundRow s q := by
  simp only [backgroundPpu] at h
  split at h
  · next hf => exact microCycle_row ((fetchDot_iff s).1 hf) rfl h
  · next hf =>
    split at h
    · next hd => cases h; exact .ntAddr hd
    · split at h
      · next hd => obtain ⟨b, hb, rfl⟩ := fetchInto_cases _ s q h; exact .patHigh b (.inr hd) hb
      · split at h
        · next hd => cases h; exact .reload hd
        · split at h
          · next hd => obtain ⟨b, hb, rfl⟩ := fetchInto_cases _ s q h; exact .ntRead b (.inr hd) hb
          · cases h
            exact .idle (mt (fetchDot_iff s).2 hf) (by omega)

/-! ### Latch by latch -/

section
variable {s : State} {q : Ppu} (h : BackgroundRow s q)
include h

/-- The address rows, in numbers (R168, R170, R172, R174). -/
theorem BackgroundRow.fetchAddr :
    q.fetchAddr.toNat =
      (if (s.ppu.dot = 1 ∨ s.ppu.dot = 321 ∨ s.ppu.dot = 339) ∨ (OnFetchDot s ∧ s.ppu.dot % 8 = 1) then
        0x2000 + s.ppu.v.toNat % 0x1000
      else if OnFetchDot s ∧ s.ppu.dot % 8 = 3 then
        0x23C0 + s.ppu.v.toNat / 0x400 % 4 * 0x400 + s.ppu.v.toNat / 128 % 8 * 8 + s.ppu.v.toNat / 4 % 8
      else if OnFetchDot s ∧ s.ppu.dot % 8 = 5 then
        s.ppu.control.toNat / 16 % 2 * 0x1000 + s.ppu.ntByte.toNat * 16 + s.ppu.v.toNat / 0x1000
      else if OnFetchDot s ∧ s.ppu.dot % 8 = 7 then (s.ppu.fetchAddr.toNat + 8) % 0x4000
      else s.ppu.fetchAddr.toNat) := by
  cases h with
  | ntAddr hd => rw [if_pos (.inl hd)]; exact ntAddr_toNat _
  | reloadNtAddr hf hk => rw [if_pos (.inr ⟨hf, hk⟩)]; exact ntAddr_toNat _
  | atAddr hf hk => rw [if_neg (by omega), if_pos ⟨hf, hk⟩]; exact atAddr_toNat _
  | patAddr hf hk => rw [if_neg (by omega), if_neg (by omega), if_pos ⟨hf, hk⟩]; exact patAddr_toNat _ _ _
  | patHighAddr hf hk =>
    rw [if_neg (by omega), if_neg (by omega), if_neg (by omega), if_pos ⟨hf, hk⟩]
    exact BitVec.toNat_add _ _
  | _ =>
    rw [if_neg (by omega), if_neg (by omega), if_neg (by omega)]
    exact (if_neg (by omega)).symm

/-- The nametable reads (R169). -/
theorem BackgroundRow.ntByte :
    if (OnFetchDot s ∧ s.ppu.dot % 8 = 2) ∨ s.ppu.dot = 338 ∨ s.ppu.dot = 340 then
      ppuBusRead s s.ppu.fetchAddr = .ok q.ntByte
    else q.ntByte = s.ppu.ntByte := by
  cases h with
  | ntRead b hd hb => rw [if_pos hd]; exact hb
  | _ => exact (if_neg (by omega)).mpr rfl

/-- The reads of `at_byte` (R171). -/
theorem BackgroundRow.atByte :
    if OnFetchDot s ∧ s.ppu.dot % 8 = 4 then
      ∃ b, ppuBusRead s s.ppu.fetchAddr = .ok b
        ∧ q.atByte = b >>> (s.ppu.v.toNat / 64 % 2 * 4 + s.ppu.v.toNat / 2 % 2 * 2)
    else q.atByte = s.ppu.atByte := by
  cases h with
  | atRead b hf hk hb => rw [if_pos ⟨hf, hk⟩]; exact ⟨b, hb, quadrant_eq _ b⟩
  | _ => exact (if_neg (by omega)).mpr rfl

/-- The reads of the low pattern byte (R173). -/
theorem BackgroundRow.patternLow :
    if OnFetchDot s ∧ s.ppu.dot % 8 = 6 then ppuBusRead s s.ppu.fetchAddr = .ok q.patternLow
    else q.patternLow = s.ppu.patternLow := by
  cases h with
  | patLow b hf hk hb => rw [if_pos ⟨hf, hk⟩]; exact hb
  | _ => exact (if_neg (by omega)).mpr rfl

/-- The reads of the high pattern byte (R174). -/
theorem BackgroundRow.patternHigh :
    if (OnFetchDot s ∧ s.ppu.dot % 8 = 0) ∨ s.ppu.dot = 256 then ppuBusRead s s.ppu.fetchAddr = .ok q.patternHigh
    else q.patternHigh = s.ppu.patternHigh := by
  cases h with
  | patHigh b hd hb => rw [if_pos hd]; exact hb
  | _ => exact (if_neg (by omega)).mpr rfl

end

/-- Settles O48: the latches of a tick are those of the row of its dot. -/
theorem tickFetch : Obligations.TickFetch := by
  intro s hs hl p d v k
  obtain ⟨t, u, q, h⟩ := exists_lineTick s hs hl
  have hrow : BackgroundRow u q := backgroundPpu_row h.background
  have haddr := hrow.fetchAddr
  have hnt := hrow.ntByte
  have hat := hrow.atByte
  have hlow := hrow.patternLow
  have hhigh := hrow.patternHigh
  obtain ⟨-, -, haddr₀, hnt₀, hat₀, hlow₀, hhigh₀⟩ := h.latchesBefore
  obtain ⟨-, -, haddr₁, hnt₁, hat₁, hlow₁, hhigh₁⟩ := h.latchesAfter
  simp only [OnFetchDot, h.dot, h.v, h.control, h.bus, haddr₀, hnt₀, hat₀, hlow₀, hhigh₀, ← haddr₁, ← hnt₁, ← hat₁,
    ← hlow₁, ← hhigh₁] at haddr hnt hat hlow hhigh
  exact ⟨t, h.exec, haddr, hnt, hat, hlow, hhigh⟩

end Sys2Proof.Machine

/-! The sprite step within a tick: clear, evaluation and load, in order of the dots (R200 to R207). -/

namespace Sys2Proof.Machine

/-! ### The sprite step, dot by dot -/

/-- The sprite actions and their dots (R200, R201): clear at 1, evaluation at 257, load at 321. -/
abbrev SpriteActionDue (s : State) : Prop :=
  SpriteActionsRun s ∧ (s.ppu.dot = 1 ∨ s.ppu.dot = 257 ∨ s.ppu.dot = 321)

theorem spritePpu_clear {s : State} (hd : s.ppu.dot = 1) (hrun : SpriteActionsRun s) :
    spritePpu s = .ok (clearSecondary s.ppu) := by
  rw [spritePpu, if_pos hd, if_pos ((spritesRun_iff s).2 hrun)]

theorem spritePpu_evaluate {s : State} (hd : s.ppu.dot = 257) (hrun : SpriteActionsRun s) :
    spritePpu s = .ok (evaluateSprites (spriteLine s.ppu.scanline) s.ppu) := by
  rw [spritePpu, if_neg (by omega), if_pos hd, if_pos ((spritesRun_iff s).2 hrun)]

theorem spritePpu_load {s : State} (hd : s.ppu.dot = 321) (hrun : SpriteActionsRun s) :
    spritePpu s = loadSprites s (spriteLine s.ppu.scanline) := by
  rw [spritePpu, if_neg (by omega), if_neg (by omega), if_pos hd, if_pos ((spritesRun_iff s).2 hrun)]

theorem spritePpu_idle {s : State} (h : ¬ SpriteActionDue s) : spritePpu s = .ok s.ppu := by
  have hgated : (s.ppu.dot = 1 ∨ s.ppu.dot = 257 ∨ s.ppu.dot = 321) → ¬ spritesRun s = true :=
    fun hd hrun => h ⟨(spritesRun_iff s).1 hrun, hd⟩
  rw [spritePpu]
  split
  · next hd => rw [if_neg (hgated (.inl hd))]
  · split
    · next hd => rw [if_neg (hgated (.inr (.inl hd)))]
    · split
      · next hd => rw [if_neg (hgated (.inr (.inr hd)))]
      · rfl

/-- A load moves the active buffer only, slot by slot (R206). -/
theorem loadSprites_cases {s : State} {line : Int} {p : Ppu} (h : loadSprites s line = .ok p) :
    ∃ es, loadSlots s line s.ppu.secondary = .ok es ∧ p = { s.ppu with sprites := es } := by
  rw [loadSprites] at h
  split at h
  · next es hes => cases h; exact ⟨es, hes, rfl⟩
  · cases h

/-- Only the evaluation moves `sprite_overflow` (R205). -/
theorem spritePpu_status {s : State} {p : Ppu} (hp : spritePpu s = .ok p)
    (h : ¬ (SpriteActionsRun s ∧ s.ppu.dot = 257)) : p.status = s.ppu.status := by
  by_cases hdue : SpriteActionDue s
  · obtain ⟨hrun, h1 | h257 | h321⟩ := hdue
    · rw [spritePpu_clear h1 hrun] at hp; cases hp; rfl
    · exact absurd ⟨hrun, h257⟩ h
    · rw [spritePpu_load h321 hrun] at hp
      obtain ⟨es, -, rfl⟩ := loadSprites_cases hp
      rfl
  · rw [spritePpu_idle hdue] at hp; cases hp; rfl

/-- Settles O50: the tick's arrays are those of the sprite step, which clears at dot 1 and is idle where no action is
due. -/
theorem spriteStepSchedule : Obligations.SpriteStepSchedule := by
  intro s hs hl d empty
  obtain ⟨p, t, hp, hexec, hsprites, hsecondary, hoverflow⟩ := tick_sprites s hs hl
  refine ⟨t, hexec, fun hd hrun => ?_, fun hidle => ?_, fun heval hclear => ?_⟩
  · rw [spritePpu_clear hd hrun] at hp
    cases hp
    exact ⟨hsecondary, hsprites⟩
  · rw [spritePpu_idle hidle] at hp
    cases hp
    exact ⟨hsprites, hsecondary⟩
  · rw [hoverflow, if_neg hclear, spritePpu_status hp heval]

/-! ### Evaluation -/

theorem spriteHeight_cast (c : Byte) : ((spriteHeight c : Nat) : Int) = if c.getLsbD 5 then 16 else 8 :=
  apply_ite Nat.cast _ _ _

/-- The model's evaluation is the loop of R204 over all 64 entries, from an empty count. -/
theorem evaluateSprites_eq_loop (line : Int) (p : Ppu) (h : p.secondary.length = 8) :
    ((evaluateSprites line p).secondary, (evaluateSprites line p).status.spriteOverflow) =
      evaluationLoop (spriteHeight p.control) line (memRead p.oam) 64 0 p.secondary 0 p.status.spriteOverflow := by
  rw [evaluationLoop_eq _ line p.oam 64 0 p.secondary 0 p.status.spriteOverflow h (by omega)]
  simp only [evaluateSprites, statusAfterEvaluation, selectedEntries, entriesInRange, List.range_eq_range',
    List.take_zero, List.nil_append, Nat.sub_zero, Nat.zero_add]

/-- Settles O51: the sprite step of dot 257 is the evaluation, which is the loop. -/
theorem spriteEvaluation : Obligations.SpriteEvaluation := by
  intro s hs hslots hl hd hrun
  obtain ⟨p, t, hp, hexec, hsprites, hsecondary, hoverflow⟩ := tick_sprites s hs hl
  rw [spritePpu_evaluate hd hrun] at hp
  cases hp
  rw [if_neg (by omega)] at hoverflow
  refine ⟨t, hexec, ?_, hsprites⟩
  rw [hsecondary, hoverflow, evaluateSprites_eq_loop _ _ hslots.2, spriteHeight_cast]
  rfl

/-! ### Load -/

/-- Slot `k` of the load is slot `k` of the secondary buffer, loaded (R206). -/
theorem loadSlots_getElem? {s : State} {line : Int} {es es' : List SpriteEntry} (h : loadSlots s line es = .ok es')
    {k : Nat} {e : SpriteEntry} (hk : es[k]? = some e) : ∃ e', loadSlot s line e = .ok e' ∧ es'[k]? = some e' := by
  induction es generalizing es' k with
  | nil => cases hk
  | cons a as ih =>
    rw [loadSlots] at h
    split at h
    · next a' as' ha has =>
      cases h
      cases k with
      | zero => cases hk; exact ⟨a', ha, rfl⟩
      | succ k => exact ih has hk
    · cases h
    · cases h

theorem loadSlot_empty {s : State} {line : Int} {e : SpriteEntry} (h : e.id = 64#7) : loadSlot s line e = .ok e :=
  if_pos h

/-- A slot with a sprite takes the bytes at its row's address and 8 above (R206, R207). -/
theorem loadSlot_sprite {s : State} {line : Int} {e e' : SpriteEntry} (hid : e.id ≠ 64#7)
    (h : loadSlot s line e = .ok e') {a : PpuAddr}
    (ha : spriteAddr s.ppu.control e (spriteRow (spriteHeight s.ppu.control) line e) = a) :
    ∃ lo hi, ppuBusRead s a = .ok lo ∧ ppuBusRead s (a + 8#14) = .ok hi
      ∧ e' = { e with dataLow := lo, dataHigh := hi } := by
  simp only [loadSlot, if_neg hid, ha] at h
  split at h
  · next lo hi hlo hhi => cases h; exact ⟨lo, hi, hlo, hhi, rfl⟩
  · cases h
  · cases h

theorem spriteHeight_cases (c : Byte) : spriteHeight c = 8 ∨ spriteHeight c = 16 := by
  rw [spriteHeight]; split
  · exact .inr rfl
  · exact .inl rfl

/-- The vertical flip mirrors the row within the height (R207). -/
theorem row_xor_eq (c : Byte) {row : Nat} (h : row < spriteHeight c) :
    row ^^^ (spriteHeight c - 1) = spriteHeight c - 1 - row := by
  have key : ∀ height ∈ [8, 16], ∀ row < height, row ^^^ (height - 1) = height - 1 - row := by decide
  exact key _ (by simpa using spriteHeight_cases c) row h

theorem row_and_eight {row : Nat} (h : row < 16) : row &&& 8 = if 8 ≤ row then 8 else 0 := by
  have key : ∀ row < 16, row &&& 8 = if 8 ≤ row then 8 else 0 := by decide
  exact key row h

/-- The row of a difference, positive or negative, before the flip: its remainder modulo the height (R207, log entry
15). -/
theorem rowOfDifference_lt (c : Byte) (diff : Int) : (diff % (spriteHeight c : Int)).toNat < spriteHeight c := by
  have hheight := spriteHeight_cases c
  have hlt := Int.emod_lt_of_pos diff (b := spriteHeight c) (by omega)
  omega

/-- The row of a sprite, with its flip in numbers (R207). -/
theorem spriteRow_eq (c : Byte) (line : Int) (e : SpriteEntry) :
    spriteRow (spriteHeight c) line e =
      if e.attributes.getLsbD 7 then
        spriteHeight c - 1 - ((line - e.positionY.toNat) % (spriteHeight c : Int)).toNat
      else ((line - e.positionY.toNat) % (spriteHeight c : Int)).toNat := by
  have hrow := rowOfDifference_lt c (line - e.positionY.toNat)
  simp only [spriteRow, attrFlipVertical, row_xor_eq c hrow]

theorem spriteRow_lt (c : Byte) (line : Int) (e : SpriteEntry) : spriteRow (spriteHeight c) line e < spriteHeight c := by
  have hrow := rowOfDifference_lt c (line - e.positionY.toNat)
  rw [spriteRow_eq]
  split <;> omega

theorem ctlSpriteTable_toNat (c : Byte) : (ctlSpriteTable c).toNat = c.toNat / 8 % 2 := by
  have key : ∀ c : Byte, (c.getLsbD 3).toNat = c.toNat / 8 % 2 := by decide
  exact key c

theorem and_one_toNat (x : Byte) : (x &&& 1#8).toNat = x.toNat % 2 := by
  rw [BitVec.toNat_and]; exact Nat.and_one_is_mod _

/-- The address of a sprite row, for both heights, in numbers (R207). -/
theorem spriteAddr_eq (c : Byte) (e : SpriteEntry) {row : Nat} (h : row < spriteHeight c) :
    spriteAddr c e row = BitVec.ofNat 14
      (if c.getLsbD 5 then e.tile.toNat % 2 * 0x1000 + e.tile.toNat / 2 * 32 + row + (if 8 ≤ row then 8 else 0)
      else c.toNat / 8 % 2 * 0x1000 + e.tile.toNat * 16 + row) := by
  have hheight := spriteHeight_cases c
  have hrow : row < 16 := by omega
  rw [spriteAddr, ctlSpriteSize]
  split
  · rw [and_one_toNat, and_FE_toNat, row_and_eight hrow, Nat.mul_assoc]
  · rw [ctlSpriteTable_toNat]

/-- Settles O52: the sprite step of dot 321 is the load, slot by slot. -/
theorem spriteLoad : Obligations.SpriteLoad := by
  intro s hs hl hd hrun line tall
  obtain ⟨p, t, hp, hexec, hsprites, hsecondary, -⟩ := tick_sprites s hs hl
  rw [spritePpu_load hd hrun] at hp
  obtain ⟨es, hes, rfl⟩ := loadSprites_cases hp
  refine ⟨t, hexec, hsecondary, ?_, fun k e hk => ?_⟩
  · rw [hsprites]; exact loadSlots_length s _ _ es hes
  · obtain ⟨e', he', hk'⟩ := loadSlots_getElem? hes hk
    rw [hsprites]
    refine ⟨fun hempty => ?_, fun hid => ?_⟩
    · rw [loadSlot_empty hempty] at he'
      cases he'
      exact hk'
    · intro h row row' addr
      have haddr : spriteAddr s.ppu.control e (spriteRow (spriteHeight s.ppu.control) (spriteLine s.ppu.scanline) e)
          = BitVec.ofNat 14 addr := by
        rw [spriteAddr_eq _ e (spriteRow_lt _ _ e), spriteRow_eq]
        rfl
      obtain ⟨lo, hi, hlo, hhi, rfl⟩ := loadSlot_sprite hid he' haddr
      exact ⟨lo, hi, hlo, BitVec.ofNat_add_ofNat addr 8 ▸ hhi, hk'⟩

end Sys2Proof.Machine

/-! The pixel of a visible dot (R210 to R217): background, the first opaque sprite, and which of the two is shown. -/

namespace Sys2Proof.Machine

/-! ### The background -/

theorem backgroundPattern_lt (p : Ppu) (x : Nat) : backgroundPattern p x < 4 := by
  rw [backgroundPattern, rawPattern]
  have hlow := toNat_bool_le (p.bgShiftLow.getLsbD (15 - p.fineX.toNat))
  have hhigh := toNat_bool_le (p.bgShiftHigh.getLsbD (15 - p.fineX.toNat))
  split <;> omega

/-- The background index where its pattern is opaque (R211). -/
theorem backgroundIndex_opaque {p : Ppu} {x : Nat} (h : backgroundPattern p x ≠ 0) :
    backgroundIndex p x =
      (p.atShiftHigh.getLsbD (7 - p.fineX.toNat)).toNat * 8 + (p.atShiftLow.getLsbD (7 - p.fineX.toNat)).toNat * 4
        + backgroundPattern p x := by
  rw [backgroundIndex, if_neg h, Nat.mul_comm 8, Nat.mul_comm 4]

theorem backgroundIndex_transparent {p : Ppu} {x : Nat} (h : backgroundPattern p x = 0) : backgroundIndex p x = 0 :=
  if_pos h

theorem backgroundIndex_lt (p : Ppu) (x : Nat) : backgroundIndex p x < 16 := by
  by_cases h : backgroundPattern p x = 0
  · rw [backgroundIndex_transparent h]; decide
  · rw [backgroundIndex_opaque h]
    have hpat := backgroundPattern_lt p x
    have hlow := toNat_bool_le (p.atShiftLow.getLsbD (7 - p.fineX.toNat))
    have hhigh := toNat_bool_le (p.atShiftHigh.getLsbD (7 - p.fineX.toNat))
    omega

/-- A background index is no alias of the palette (R70). -/
theorem pixelColour_background (s : State) (x : Nat) :
    pixelColour s (backgroundIndex s.ppu x) = shownColour s (backgroundIndex s.ppu x) := by
  have := backgroundIndex_lt s.ppu x
  exact pixelColour_eq s _ (by omega) (by omega)

/-! ### The sprites -/

theorem not_spritesVisible {m : Byte} {x : Nat}
    (h : m.getLsbD 4 = false ∨ x < 8 ∧ m.getLsbD 2 = false) : ¬ spritesVisible m x = true := by
  rw [spritesVisible_iff]
  rintro ⟨hon, hcol⟩
  obtain hoff | ⟨hx, hleft⟩ := h
  · exact Bool.false_ne_true (hoff.symm.trans hon)
  · exact hcol.elim (by omega) fun hshown => Bool.false_ne_true (hleft.symm.trans hshown)

/-- No sprite pixel where sprites are hidden or no slot is opaque (R213). -/
theorem spritePixel_eq_none {p : Ppu} {x : Nat}
    (h : p.mask.getLsbD 4 = false ∨ (x < 8 ∧ p.mask.getLsbD 2 = false) ∨ ∀ e ∈ p.sprites, ShowsNothing e x) :
    spritePixel p x = none := by
  obtain hoff | hleft | hslots := h
  · exact if_neg (not_spritesVisible (.inl hoff))
  · exact if_neg (not_spritesVisible (.inr hleft))
  · rw [spritePixel, List.findSome?_eq_none_iff.2 fun e he => (slotPixel_eq_none x e).2 (hslots e he), ite_self]

/-- The sprite pixel of the first opaque slot (R213). -/
theorem spritePixel_first {p : Ppu} {x : Nat} {before after : List SpriteEntry} {e : SpriteEntry}
    (hslots : p.sprites = before ++ e :: after) (hbefore : ∀ q ∈ before, ShowsNothing q x) (he : ¬ ShowsNothing e x)
    (hon : p.mask.getLsbD 4 = true) (hcol : 8 ≤ x ∨ p.mask.getLsbD 2 = true) :
    spritePixel p x = some
      { index := 16 + e.attributes.toNat % 4 * 4 + spriteValue e x, behind := attrBehind e.attributes
        zero := decide (e.id = 0#7) } := by
  have hnone : before.findSome? (slotPixel x) = none :=
    List.findSome?_eq_none_iff.2 fun q hq => (slotPixel_eq_none x q).2 (hbefore q hq)
  rw [spritePixel, if_pos ((spritesVisible_iff _ _).2 ⟨hon, hcol⟩), hslots, List.findSome?_append, hnone,
    Option.none_or, List.findSome?_cons, slotPixel_opaque x e he]

/-- An opaque sprite index is no alias of the palette (R70). -/
theorem pixelColour_sprite (s : State) {x : Nat} {e : SpriteEntry} (he : ¬ ShowsNothing e x) :
    pixelColour s (16 + e.attributes.toNat % 4 * 4 + spriteValue e x)
      = shownColour s (16 + e.attributes.toNat % 4 * 4 + spriteValue e x) := by
  have hlt := spriteValue_lt e x
  have hne : spriteValue e x ≠ 0 := fun h => he (.inr (.inr (.inr h)))
  exact pixelColour_eq s _ (by omega) (by omega)

/-! ### The composite -/

theorem pixelIndex_background {p : Ppu} {x : Nat} (h : spritePixel p x = none) :
    pixelIndex p x = backgroundIndex p x := by
  rw [pixelIndex, h, priorityIndex, ite_eq_right_iff]
  exact fun hpat => (backgroundIndex_transparent hpat).symm

theorem zeroOpaque_none {p : Ppu} {x : Nat} (h : spritePixel p x = none) : zeroOpaque p x = false := by
  rw [zeroOpaque, h]

/-- A sprite pixel is shown over a transparent background, and over an opaque one unless it is behind (R214). -/
theorem pixelIndex_shown {p : Ppu} {x : Nat} {q : SpritePixel} (h : spritePixel p x = some q)
    (hshown : backgroundPattern p x = 0 ∨ q.behind = false) : pixelIndex p x = q.index := by
  rw [pixelIndex, h, priorityIndex, if_pos hshown]

theorem pixelIndex_behind {p : Ppu} {x : Nat} {q : SpritePixel} (h : spritePixel p x = some q)
    (hbehind : ¬ (backgroundPattern p x = 0 ∨ q.behind = false)) : pixelIndex p x = backgroundIndex p x := by
  rw [pixelIndex, h, priorityIndex, if_neg hbehind]

theorem zeroOpaque_some {p : Ppu} {x : Nat} {q : SpritePixel} (h : spritePixel p x = some q) :
    zeroOpaque p x = q.zero := by
  rw [zeroOpaque, h]

/-- The sprite-0 hit of a pixel (R215). -/
theorem statusAfterPixel_hit (x pat : Nat) (zero : Bool) (st : Status) :
    (statusAfterPixel x pat zero st).spriteZeroHit = (st.spriteZeroHit || (zero && pat != 0 && x != 255)) := by
  simp only [statusAfterPixel, bne, decide_not, beq_eq_decide]

/-- Settles O53: with no sprite pixel the composite is the background's and there is no hit. -/
theorem backgroundPixel : Obligations.BackgroundPixel := by
  intro s hs hl h2 h257 p x m hno shown f pat idx
  have hnone : spritePixel p x = none := spritePixel_eq_none hno
  have hpat : backgroundPattern p x = pat := backgroundPattern_eq p x
  have hidx : backgroundIndex p x = idx := by
    simp only [idx]
    split
    · next h => exact backgroundIndex_transparent (hpat.trans h)
    · next h => rw [backgroundIndex_opaque (hpat ▸ h), hpat]
  obtain ⟨t, hexec, hevents, hhit⟩ := tick_pixel s hs hl h2 h257
  refine ⟨t, hexec, ?_, ?_⟩
  · rw [hevents, pixelIndex_background hnone, pixelColour_background, hidx]
  · rw [hhit, statusAfterPixel_hit, zeroOpaque_none hnone, Bool.false_and, Bool.false_and, Bool.or_false]

/-- Settles O54: the first opaque slot is the sprite pixel, shown by its priority, and a hit if it is entry 0's. -/
theorem spritePixelWins : Obligations.SpritePixelWins := by
  intro s before after e hs hl h2 h257 hslots p x m hbefore he hon hcol f pat bg idx
  have hsome := spritePixel_first (p := p) hslots hbefore he hon hcol
  have hpat : backgroundPattern p x = pat := backgroundPattern_eq p x
  have hcolour : pixelColour s (pixelIndex p x) = shownColour s idx := by
    by_cases hshown : pat = 0 ∨ e.attributes.getLsbD 5 = false
    · have hidx : idx = 16 + e.attributes.toNat % 4 * 4 + spriteValue e x := if_pos hshown
      rw [pixelIndex_shown hsome (hpat ▸ hshown), hidx]
      exact pixelColour_sprite s he
    · have hbg : backgroundIndex p x = idx := by
        rw [backgroundIndex_opaque (hpat ▸ fun h0 => hshown (.inl h0)), hpat]
        exact (if_neg hshown).symm
      rw [pixelIndex_behind hsome (hpat ▸ hshown), pixelColour_background, hbg]
  obtain ⟨t, hexec, hevents, hhit⟩ := tick_pixel s hs hl h2 h257
  refine ⟨t, hexec, by rw [hevents, hcolour], ?_⟩
  rw [hhit, statusAfterPixel_hit, zeroOpaque_some hsome, hpat, beq_eq_decide]

end Sys2Proof.Machine

/-! The cartridge accesses of the session: PRG and CHR through the window tables, CHR writes, and the RAM window
(R241 to R244, R247, R248, R323). -/

namespace Sys2Proof.Machine

/-! ### The window behind a translated address -/

/-- A pair a table answers is that of the window the offset falls into. -/
theorem translate_eq_ok {table : List Window} {wsize off a b j : Nat} (h : translate table wsize off a = .ok (b, j)) :
    ∃ w, table[off / wsize]? = some w ∧ w.bank = b ∧ w.offset + off % wsize = j := by
  rw [translate] at h
  split at h
  · next w hw => cases h; exact ⟨w, hw, rfl, rfl⟩
  · cases h

theorem romProgram_window {s : State} {a : Addr} {b j : Nat} (ha : 0x8000 ≤ a.toNat)
    (h : romProgram s a = .ok (b, j)) :
    ∃ w, s.prgTable[(a.toNat - 0x8000) / (0x8000 / prgWindows s.mapper)]? = some w ∧ w.bank = b
      ∧ w.offset + (a.toNat - 0x8000) % (0x8000 / prgWindows s.mapper) = j := by
  rw [romProgram, if_neg (by omega)] at h
  exact translate_eq_ok h

/-- PRG_R returns what `read_rom_program` reads (R241). -/
theorem exec_prgR_of_prgRead {a : Addr} {s : State} {b : Byte} (h : prgRead s a = .ok b) :
    exec (.prgR a) s = .next (returnByte b s) := by
  simp only [exec, execPrgR, settleByte, h, Except.map, settle]

/-- Settles O22 (in a namespace of its own, for `prgRead` is the model's): the pair the read goes to is that of a
window, and lies in a bank the cartridge has. -/
theorem Storage.prgRead : Obligations.PrgRead := by
  intro s a hs ha off wsize
  obtain ⟨b, j, hrom, hbank, hbyte, hread⟩ := prgRead_ok s a hs ha
  obtain ⟨w, hw, rfl, rfl⟩ := romProgram_window ha hrom
  exact ⟨w, hw, hbank, hbyte, hrom, exec_prgR_of_prgRead hread⟩

/-- Settles O23: the pair the read goes to is that of a window, and lies in a bank the mapper sees. -/
theorem Storage.chrRead : Obligations.ChrRead := by
  intro s a hs ha wsize
  obtain ⟨b, j, hrom, hbank, hbyte, hread⟩ := chrRead_ok s a.toNat hs ha
  obtain ⟨w, hw, rfl, rfl⟩ := translate_eq_ok hrom
  exact ⟨w, hw, hbank, hbyte, hrom, exec_chrR_of_chrRead hread⟩

/-! ### CHR writes -/

/-- A CHR write that `write_rom_character` completes (R243). -/
theorem exec_chrW_of_ok {a : Addr} {d : Byte} {s u : State} (h : chrWrite a.toNat d s = .ok u) :
    exec (.chrW a d) s = .next (complete u) := by
  simp only [exec, execChrW, h, Except.map, settle]

/-- A CHR write that `write_rom_character` faults (R243). -/
theorem exec_chrW_of_error {a : Addr} {d : Byte} {s : State} {f : Fault} (h : chrWrite a.toNat d s = .error f) :
    exec (.chrW a d) s = .fault f := by
  simp only [exec, execChrW, h, Except.map, settle, raise]

/-- Settles O24: the store changes the byte of the translated pair only; on CHR ROM the policy decides. -/
theorem Storage.chrWrite : Obligations.ChrWrite := by
  intro s a d hs hwf ha
  refine ⟨fun hstore => ?_, fun hrom hignore => ?_, fun hrom hfault => ?_⟩
  · obtain ⟨bank, j, hbank, hwrite⟩ := chrWrite_store s a.toNat d hs ha hstore
    exact ⟨bank, j, _, hbank, exec_chrW_of_ok hwrite, rfl, chrStore_bytes s _ _ d hwf rfl rfl rfl rfl rfl rfl⟩
  · exact exec_chrW_of_ok (chrWrite_ignore s a.toNat d hs ha hrom hignore)
  · exact exec_chrW_of_error (chrWrite_fault s a.toNat d hs ha hrom hfault)

/-! ### The RAM window -/

/-- The RAM window answers reads unless a gate with bit 7 clear closes it (R323). -/
theorem ramReadable_iff (s : State) : ramReadable s = true ↔ ∀ p, ramGate s = some p → p.getLsbD 7 = true := by
  rw [ramReadable]
  cases ramGate s <;> simp

/-- The RAM window takes writes unless a gate with bit 7 clear or bit 6 set closes it (R323). -/
theorem ramWritable_iff (s : State) :
    ramWritable s = true ↔ ∀ p, ramGate s = some p → p.getLsbD 7 = true ∧ p.getLsbD 6 = false := by
  rw [ramWritable]
  cases ramGate s <;> simp

/-- Bank 0 of PRG RAM holds every byte of the window (R244). -/
theorem ramRead_ok {s : State} (a : Addr) (h : GeometryOk s) : ramRead s a = .ok (byteAt s .ram (ramOffset a)) := by
  have hbank : 0 < s.cart.ramBanks := h.2
  rw [ramRead, storageRead, if_pos hbank, Nat.zero_mul, Nat.zero_add]
  rfl

theorem ramWrite_ok {s : State} (a : Addr) (d : Byte) (h : GeometryOk s) :
    ramWrite a d s = .ok (setCart { s.cart with prgRam := memWrite s.cart.prgRam (ramOffset a) d } s) := by
  have hbank : 0 < s.cart.ramBanks := h.2
  rw [ramWrite, storageWrite, if_pos hbank, Nat.zero_mul, Nat.zero_add]

/-- A RAM write writes its byte and no other (R248). -/
theorem ramStore_bytes (s : State) (n : Nat) (d : Byte) (hwf : Memory.wf s.cart.prgRam) :
    byteAt (setCart { s.cart with prgRam := memWrite s.cart.prgRam n d } s) .ram n = d
      ∧ SameBytesBut .ram n s (setCart { s.cart with prgRam := memWrite s.cart.prgRam n d } s) := by
  refine ⟨by simp [byteAt, State.memory, memRead_memWrite _ _ _ hwf], fun k x hk => ?_⟩
  cases k with
  | ram => exact memRead_memWrite_other _ _ _ _ fun e => hk ⟨rfl, e⟩
  | nt | pal | oam | prg | chr => rfl

theorem exec_ramR_open {s : State} (a : Addr) (hgeo : GeometryOk s) (h : ramReadable s = true) :
    exec (.ramR a) s = .next (returnByte (byteAt s .ram (ramOffset a)) s) := by
  simp only [exec, execRamR, if_pos h, settleByte, ramRead_ok a hgeo, Except.map, settle]

/-- A closed RAM window reads a free byte (R323). -/
theorem exec_ramR_closed {s : State} (a : Addr) (h : ¬ ramReadable s = true) :
    exec (.ramR a) s = .next (tookDraw (returnByte (drawn s) s)) :=
  if_neg h

theorem exec_ramW_open {s : State} (a : Addr) (d : Byte) (hgeo : GeometryOk s) (h : ramWritable s = true) :
    exec (.ramW a d) s =
      .next (complete (setCart { s.cart with prgRam := memWrite s.cart.prgRam (ramOffset a) d } s)) := by
  simp only [exec, execRamW, if_pos h, ramWrite_ok a d hgeo, Except.map, settle]

/-- A closed RAM window ignores a write (R323). -/
theorem exec_ramW_closed {s : State} (a : Addr) (d : Byte) (h : ¬ ramWritable s = true) :
    exec (.ramW a d) s = .next (complete s) :=
  if_neg h

/-- Settles O25: the statement's gate is the model's, which opens or closes the window of bank 0. -/
theorem ramAccess : Obligations.RamAccess := by
  intro s a d hgeo hwf _ gated
  have hgated : ∀ p, gated p ↔ ramGate s = some p := fun p => (ramGate_eq_some s p).symm
  simp only [hgated]
  refine ⟨fun hopen => ?_, fun ⟨p, hp, hclosed⟩ => ?_, fun hopen => ?_, fun ⟨p, hp, hclosed⟩ => ?_⟩
  · exact exec_ramR_open a hgeo ((ramReadable_iff s).2 hopen)
  · refine exec_ramR_closed a fun hread => ?_
    exact Bool.false_ne_true (hclosed.symm.trans ((ramReadable_iff s).1 hread p hp))
  · exact ⟨_, exec_ramW_open a d hgeo ((ramWritable_iff s).2 hopen), rfl, ramStore_bytes s (ramOffset a) d hwf⟩
  · refine exec_ramW_closed a d fun hwrite => ?_
    obtain ⟨h7, h6⟩ := (ramWritable_iff s).1 hwrite p hp
    rw [h7, h6] at hclosed
    exact hclosed.elim (by decide) (by decide)

end Sys2Proof.Machine

/-! The load of a cartridge image and the session it opens (R250 to R254, R346, R347). -/

namespace Sys2Proof.Machine

/-! ### Validation -/

/-- The images R251 and R347 reject: no whole header, another magic, no PRG bank, or fewer bytes than the
header states. -/
abbrev Malformed (file : List Byte) : Prop :=
  file.length < 16 ∨ file.take 4 ≠ [0x4E, 0x45, 0x53, 0x1A] ∨ (parseHeader file).prgBanks = 0
    ∨ file.length < statedSize (parseHeader file)

theorem hasMagic_eq_false_iff (file : List Byte) : hasMagic file = false ↔ file.take 4 ≠ [0x4E, 0x45, 0x53, 0x1A] :=
  beq_eq_false_iff_ne

theorem checkImage_of_malformed {file : List Byte} (h : Malformed file) :
    checkImage (some file) = .error .malformedCartridge := by
  rw [Malformed, ← hasMagic_eq_false_iff] at h
  rw [checkImage]
  split_ifs with hshort hmagic hprg hsize
  · rfl
  · rfl
  · rfl
  · rfl
  · simp [hshort, hmagic, hprg, hsize] at h

theorem checkImage_of_not_malformed {file : List Byte} (h : ¬ Malformed file) :
    checkImage (some file) = .ok (parseHeader file) := by
  simp only [Malformed, not_or, ← hasMagic_eq_false_iff] at h
  obtain ⟨hshort, hmagic, hprg, hsize⟩ := h
  rw [checkImage, if_neg hshort, if_neg hmagic, if_neg hprg, if_neg hsize]

/-! ### A failed load -/

/-- A failed load gives its fault and leaves the cartridge cleared (R251, R345). -/
theorem load_failed {file : Option (List Byte)} {f : Fault} (s : State) (h : checkImage file = .error f) :
    load file s = .fault f ∧ (loadCartridge file s).2 = some f ∧ Cleared (loadCartridge file s).1 := by
  rw [load, loadCartridge_failed file s f h]
  exact ⟨rfl, rfl, clearBlock_cleared s⟩

/-! ### Mapper selection -/

/-- A MAPPER_ID above 4 selects no variant (R346). -/
theorem selectMapper_of_gt {id : Byte} (p : Params) (h : 4 < id.toNat) : selectMapper id p = none := by
  obtain ⟨n, hn⟩ := Nat.exists_eq_add_of_le' h
  rw [selectMapper, hn]
  rfl

/-- A MAPPER_ID in 0..4 selects the variant of that id (R240, R253). -/
theorem selectMapper_of_le {id : Byte} (p : Params) (h : id.toNat ≤ 4) :
    ∃ m, selectMapper id p = some m ∧ m.id.toNat = id.toNat := by
  rw [selectMapper]
  generalize id.toNat = n at *
  interval_cases n <;> exact ⟨_, rfl, rfl⟩

/-! ### The cartridge of an image -/

/-- The bytes of a stretch of an image, as a memory. -/
theorem memRead_memOfBytes_slice (file : List Byte) (start : Nat) {n j : Nat} (h : j < n) :
    memRead (memOfBytes 0 ((file.drop start).take n)) j = file.getD (start + j) 0 := by
  have hread := memRead_memOfBytes ((file.drop start).take n) 0 j
  rw [Nat.zero_add] at hread
  rw [hread, List.getD_eq_getElem?_getD, List.getElem?_take_of_lt h, List.getElem?_drop, List.getD_eq_getElem?_getD]
  rfl

theorem cartridgeOf_chr_rom (file : List Byte) {h : Header} (p : Params) (hn : h.chrRomBanks ≠ 0) :
    (cartridgeOf file h p).chr =
      memOfBytes 0 ((file.drop (prgStart h + 16384 * h.prgBanks)).take (8192 * h.chrRomBanks)) :=
  if_neg hn

theorem cartridgeOf_chr_ram (file : List Byte) {h : Header} (p : Params) (hn : h.chrRomBanks = 0) :
    (cartridgeOf file h p).chr = memOfCells 8192 p.chrRamInit :=
  if_pos hn

/-- CHR storage is canonical, from the image as from CART_RAM_INIT. -/
theorem cartridgeOf_chr_wf (file : List Byte) (h : Header) (p : Params) : Memory.wf (cartridgeOf file h p).chr := by
  by_cases hn : h.chrRomBanks = 0
  · rw [cartridgeOf_chr_ram file p hn]; exact memOfCells_wf _ _
  · rw [cartridgeOf_chr_rom file p hn]; exact memOfBytes_wf _ _

/-! ### A load that succeeds -/

/-- The block that holds the cartridge of an image, before mapper selection (R252). -/
def loadedBlock (file : List Byte) (s : State) : State :=
  { clearBlock s with cart := cartridgeOf file (parseHeader file) s.params, loaded := true }

theorem loadCartridge_wellFormed {file : List Byte} (s : State) (h : ¬ Malformed file) :
    loadCartridge (some file) s = (loadedBlock file s, none) :=
  loadCartridge_loaded (some file) s _ (checkImage_of_not_malformed h)

/-- An image without a variant is loaded, and its session refused (R346). -/
theorem load_refused {file : List Byte} {s : State} (h : ¬ Malformed file)
    (hid : selectMapper (parseHeader file).mapperId s.params = none) :
    load (some file) s = .refused (.unsupportedMapper (parseHeader file).mapperId) := by
  simp only [load, loadCartridge_wellFormed s h, Option.getD_some, hid]

/-- A session opens with the selected variant (R253). -/
theorem load_selected {file : List Byte} {s : State} {m : Mapper} (h : ¬ Malformed file)
    (hid : selectMapper (parseHeader file).mapperId s.params = some m) :
    load (some file) s = .next (setMapper m (loadedBlock file s)) := by
  simp only [load, loadCartridge_wellFormed s h, Option.getD_some, hid]
  rfl

theorem byteAt_loadedBlock_prg {file : List Byte} {j : Nat} (s : State) (h : j < 16384 * (parseHeader file).prgBanks) :
    byteAt (loadedBlock file s) .prg j = file.getD (prgStart (parseHeader file) + j) 0 :=
  memRead_memOfBytes_slice file _ h

theorem byteAt_loadedBlock_chrRom {file : List Byte} {j : Nat} (s : State) (hn : (parseHeader file).chrRomBanks ≠ 0)
    (h : j < 8192 * (parseHeader file).chrRomBanks) :
    byteAt (loadedBlock file s) .chr j =
      file.getD (prgStart (parseHeader file) + 16384 * (parseHeader file).prgBanks + j) 0 := by
  rw [← memRead_memOfBytes_slice file _ h, ← cartridgeOf_chr_rom file s.params hn]
  rfl

theorem byteAt_loadedBlock_chrRam {file : List Byte} {j : Nat} (s : State) (hn : (parseHeader file).chrRomBanks = 0)
    (h : j < 8192) : byteAt (loadedBlock file s) .chr j = initByte s.params.chrRamInit j := by
  rw [← memRead_memOfCells 8192 _ j h, ← cartridgeOf_chr_ram file s.params hn]
  rfl

theorem byteAt_loadedBlock_ram {file : List Byte} {j : Nat} (s : State) (h : j < 8192 * (parseHeader file).ramBanks) :
    byteAt (loadedBlock file s) .ram j = initByte s.params.prgRamInit j :=
  memRead_memOfCells _ _ j h

/-- The first RESET of a loaded session establishes the invariant (R370, R371). -/
theorem resetBlock_loaded_inv {file : List Byte} (s : State) (m : Mapper) (h : ¬ Malformed file) :
    Inv (resetBlock (setMapper m (loadedBlock file s))) := by
  have hprg : (parseHeader file).prgBanks ≠ 0 := fun h0 => h (.inr (.inr (.inl h0)))
  exact resetBlock_inv ⟨Nat.one_le_iff_ne_zero.2 hprg, Nat.le_add_left 1 _⟩ (memOfBytes_wf _ _)
    (cartridgeOf_chr_wf _ _ _) (memOfCells_wf _ _)

/-- Settles O10: an image is malformed or loaded whole; its MAPPER_ID then selects a variant or refuses the session. -/
theorem loadRules : Obligations.LoadRules := by
  refine fun s => ⟨load_failed s rfl, ?_⟩
  intro file p n ramc trainer id bad after
  have hbad : bad ↔ Malformed file := Iff.rfl
  have hid : (parseHeader file).mapperId.toNat = id := mapperId_toNat file
  have hafter : ¬ Malformed file → after = (loadedBlock file s, none) := loadCartridge_wellFormed s
  rw [hbad]
  refine ⟨fun h => load_failed s (checkImage_of_malformed h), fun h => ?_, fun h hgt => ?_, fun h hle => ?_⟩
  · rw [hafter h]; exact ⟨rfl, rfl⟩
  · rw [load_refused h (selectMapper_of_gt s.params (hid ▸ hgt)), ← hid, BitVec.ofNat_toNat, BitVec.setWidth_eq]
  · obtain ⟨m, hm, hmid⟩ := selectMapper_of_le s.params (hid.trans_le hle)
    refine ⟨setMapper m (loadedBlock file s), load_selected h hm, ?_, rfl, rfl, hmid.trans hid, rfl, rfl, rfl, rfl,
      fun j hj => ?_, fun hn j hj => ?_, fun hn j hj => ?_, fun j hj => ?_, _, rfl,
      inv_complete.2 (resetBlock_loaded_inv s m h)⟩
    · rw [hafter h]; rfl
    all_goals rw [byteAt_setMapper]
    · exact byteAt_loadedBlock_prg s hj
    · exact byteAt_loadedBlock_chrRom s hn.ne' hj
    · exact byteAt_loadedBlock_chrRam s hn hj
    · exact byteAt_loadedBlock_ram s hj

end Sys2Proof.Machine

/-! NROM, UXROM and CNROM (44_mapper_discrete.md), with the hooks of the four variants that have no IRQ counter. -/

namespace Sys2Proof.Machine

/-! ### Rows without an effect of their own -/

/-- Settles O28: the row in a session of its own variant is the fault alone. -/
theorem nromPrgWriteFaults : Obligations.NromPrgWriteFaults :=
  fun s _ _ h => forVariant_own 0 s _ (congrArg Mapper.id h)

/-- Settles O29: each hook in a session of its own variant completes the state it found. -/
theorem silentHooks : Obligations.SilentHooks := by
  refine fun s => ⟨fun h => ?_, fun sel h => ?_, fun sel h => ?_, fun r h => ?_⟩
  · exact forVariant_own 0 s _ (congrArg Mapper.id h)
  · exact forVariant_own 2 s _ (congrArg Mapper.id h)
  · exact forVariant_own 3 s _ (congrArg Mapper.id h)
  · exact onMmc1_own s r _ h

/-! ### Windows of one whole bank -/

/-- A unit as large as a bank is the bank of its number (R245). -/
theorem unitWindow_one (size u : Nat) : unitWindow 1 size u = ⟨u, 0⟩ := by
  rw [unitWindow, Nat.div_one, Nat.mod_one, Nat.zero_mul]

theorem prgUnit16_eq (p u : Nat) : prgUnit16 p u = ⟨u % p, 0⟩ := unitWindow_one _ _

theorem chrUnit8_eq (c u : Nat) : chrUnit8 c u = ⟨u % c, 0⟩ := unitWindow_one _ _

/-- The first 16 KB, and the last (R270, R276). -/
theorem fixedPrgTable_eq (p : Nat) : fixedPrgTable p = [⟨0, 0⟩, ⟨(p - 1) % p, 0⟩] := by
  rw [fixedPrgTable, prgUnit16_eq, prgUnit16_eq, Nat.zero_mod]

/-- The selected 16 KB modulo P, and the last (R273). -/
theorem uxromPrgTable_eq (sel : BitVec 4) {p : Nat} (hp : 1 ≤ p) :
    uxromPrgTable sel p = [⟨sel.toNat % p, 0⟩, ⟨p - 1, 0⟩] := by
  rw [uxromPrgTable, prgUnit16_eq, prgUnit16_eq, Nat.mod_eq_of_lt (Nat.sub_one_lt_of_le hp le_rfl)]

/-! ### Bank writes -/

/-- A mapper write without a push leaves the registers and their tables, and the mirroring as it was (R245, R255). -/
theorem complete_updateMapper_of_not_pushes {m : Mapper} (s : State) (h : pushesMirroring m = false) :
    complete (updateMapper m s) =
      { s with
        mapper := m
        prgTable := prgTableOf m s.cart.prgBanks
        chrTable := chrTableOf m (chrBanks s.cart)
        result := none } := by
  rw [updateMapper, recompute, setMapper_mapper, h]
  rfl

theorem exec_uxromBankW {s : State} {sel : BitVec 4} (a : Addr) (d : Byte) (h : s.mapper = .uxrom sel) :
    exec (.uxromBankW a d) s = .next (complete (updateMapper (.uxrom (d.setWidth 4)) s)) := by
  rw [BitVec.setWidth_eq_extractLsb' (by decide)]
  exact forVariant_own 2 s _ (congrArg Mapper.id h)

theorem exec_cnromBankW {s : State} {sel : BitVec 2} (a : Addr) (d : Byte) (h : s.mapper = .cnrom sel) :
    exec (.cnromBankW a d) s = .next (complete (updateMapper (.cnrom (d.setWidth 2)) s)) := by
  rw [BitVec.setWidth_eq_extractLsb' (by decide)]
  exact forVariant_own 3 s _ (congrArg Mapper.id h)

/-- Settles O31: the tables are those of the new `prg_select`; the last bank is below P, so it does not wrap. -/
theorem uxromBankWrite : Obligations.UxromBankWrite := by
  intro s a d sel hm hgeo
  have hprg : prgTableOf (.uxrom (d.setWidth 4)) s.cart.prgBanks =
      [⟨d.toNat % 16 % s.cart.prgBanks, 0⟩, ⟨s.cart.prgBanks - 1, 0⟩] := by
    rw [prgTableOf, uxromPrgTable_eq _ hgeo.1, BitVec.toNat_setWidth]
  have hchr : chrTableOf (.uxrom (d.setWidth 4)) (chrBanks s.cart) = [⟨0, 0⟩] := by
    rw [chrTableOf, chrUnit8_eq, Nat.zero_mod]
  rw [exec_uxromBankW a d hm, complete_updateMapper_of_not_pushes s rfl, hprg, hchr]

/-- Settles O32: the tables are those of the new `chr_select`. -/
theorem cnromBankWrite : Obligations.CnromBankWrite := by
  intro s a d sel hm
  have hprg : prgTableOf (.cnrom (d.setWidth 2)) s.cart.prgBanks =
      [⟨0, 0⟩, ⟨(s.cart.prgBanks - 1) % s.cart.prgBanks, 0⟩] := fixedPrgTable_eq _
  have hchr : chrTableOf (.cnrom (d.setWidth 2)) (chrBanks s.cart) = [⟨d.toNat % 4 % chrBanks s.cart, 0⟩] := by
    rw [chrTableOf, chrUnit8_eq, BitVec.toNat_setWidth]
  rw [exec_cnromBankW a d hm, complete_updateMapper_of_not_pushes s rfl, hprg, hchr]
  rfl

end Sys2Proof.Machine

/-! SXROM / MMC1 (45_mapper_mmc1.md): its four write rows and its tables. -/

namespace Sys2Proof.Machine

/-! ### The four write rows -/

/-- Each of the four rows is the serial write at its address (R293 to R296). -/
theorem exec_mmc1Row {a : Addr} {d : Byte} {i : Instr} (hi : i ∈ mmc1Rows a d) (s : State) :
    exec i s = onMmc1 s (mmc1Write a d s) := by
  simp only [mmc1Rows, List.mem_cons, List.not_mem_nil, or_false] at hi
  obtain rfl | rfl | rfl | rfl := hi <;> rfl

theorem exec_mmc1_resetBit {s : State} {r : Mmc1} {a : Addr} {d : Byte} {i : Instr} (hi : i ∈ mmc1Rows a d)
    (hm : s.mapper = .mmc1 r) (h7 : d.getLsbD 7 = true) :
    exec i s = .next (recomputed (.mmc1 (mmc1ResetBit r)) s) := by
  rw [exec_mmc1Row hi, onMmc1_own s r _ hm, mmc1Write, if_pos h7, complete_updateMapper_mmc1]

/-- The registers after a bit that commits nothing (R291). -/
def mmc1ShiftIn (r : Mmc1) (d : Byte) : Mmc1 :=
  { r with shiftValue := mmc1Shifted r d, shiftCount := r.shiftCount + 1 }

@[simp] theorem mmc1ShiftIn_shiftCount (r : Mmc1) (d : Byte) : (mmc1ShiftIn r d).shiftCount = r.shiftCount + 1 := rfl

theorem exec_mmc1_shift {s : State} {r : Mmc1} {a : Addr} {d : Byte} {i : Instr} (hi : i ∈ mmc1Rows a d)
    (hm : s.mapper = .mmc1 r) (h7 : d.getLsbD 7 = false) (hc : r.shiftCount < 4) :
    exec i s = .next (complete (setMapper (.mmc1 (mmc1ShiftIn r d)) s)) :=
  (exec_mmc1Row hi s).trans (mmc1_shift_step s r a d hm h7 hc)

theorem exec_mmc1_commit {s : State} {r : Mmc1} {a : Addr} {d : Byte} {i : Instr} (hi : i ∈ mmc1Rows a d)
    (hm : s.mapper = .mmc1 r) (h7 : d.getLsbD 7 = false) (hc : 4 ≤ r.shiftCount) :
    exec i s = .next (recomputed (.mmc1 (mmc1Commit r a (mmc1Shifted r d))) s) :=
  (exec_mmc1Row hi s).trans (mmc1_commit_step s r a d hm h7 (Nat.not_lt.2 hc))

/-! ### The register of each range -/

theorem mmc1_select_of_mmc1Addr {base a : Addr} (h : mmc1Addr base a = true) :
    ((a >>> 13) &&& 3#16).toNat = ((base >>> 13) &&& 3#16).toNat :=
  mmc1_select a base (beq_iff_eq.1 h)

theorem mmc1Commit_control {a : Addr} (r : Mmc1) (v : BitVec 5) (h : mmc1Addr 0x8000 a = true) :
    mmc1Commit r a v = { r with control := v, shiftValue := 0, shiftCount := 0 } := by
  rw [mmc1Commit, mmc1_select_of_mmc1Addr h]; rfl

theorem mmc1Commit_chrBank0 {a : Addr} (r : Mmc1) (v : BitVec 5) (h : mmc1Addr 0xA000 a = true) :
    mmc1Commit r a v = { r with chrBank0 := v, shiftValue := 0, shiftCount := 0 } := by
  rw [mmc1Commit, mmc1_select_of_mmc1Addr h]; rfl

theorem mmc1Commit_chrBank1 {a : Addr} (r : Mmc1) (v : BitVec 5) (h : mmc1Addr 0xC000 a = true) :
    mmc1Commit r a v = { r with chrBank1 := v, shiftValue := 0, shiftCount := 0 } := by
  rw [mmc1Commit, mmc1_select_of_mmc1Addr h]; rfl

theorem mmc1Commit_prgBank {a : Addr} (r : Mmc1) (v : BitVec 5) (h : mmc1Addr 0xE000 a = true) :
    mmc1Commit r a v = { r with prgBank := v.setWidth 4, shiftValue := 0, shiftCount := 0 } := by
  rw [mmc1Commit, mmc1_select_of_mmc1Addr h]; rfl

/-- A commit takes nothing from the shift state but the value it is given (R291). -/
theorem mmc1Commit_mmc1ShiftIn (r : Mmc1) (d : Byte) (a : Addr) (v : BitVec 5) :
    mmc1Commit (mmc1ShiftIn r d) a v = mmc1Commit r a v := by
  simp only [mmc1Commit]; split <;> rfl

/-- The low four bits, masked before the truncation or not (R296). -/
theorem setWidth_and_0F (v : BitVec 5) : (v &&& 0x0F#5).setWidth 4 = v.setWidth 4 := by
  rw [BitVec.setWidth_and]; exact BitVec.and_allOnes

/-- Settles O33: each row is the serial write, and a reset bit recomputes the tables of `mmc1ResetBit`. -/
theorem mmc1ResetBitWrite : Obligations.Mmc1ResetBitWrite :=
  fun _ _ _ _ _ hm h7 hi => exec_mmc1_resetBit hi hm h7

/-- Settles O34: below four bits each row shifts; at four it commits the register its own range selects. -/
theorem mmc1SerialWrite : Obligations.Mmc1SerialWrite := by
  intro s r a d hm h7 value
  have hvalue : mmc1Shifted r d = value := mmc1Shifted_eq r d
  refine ⟨fun hc i hi => ?_, fun hc => ?_⟩
  · rw [exec_mmc1_shift hi hm h7 hc, mmc1ShiftIn, hvalue]; rfl
  · have hcommit : ∀ i ∈ mmc1Rows a d, exec i s = .next (recomputed (.mmc1 (mmc1Commit r a value)) s) :=
      fun i hi => hvalue ▸ exec_mmc1_commit hi hm h7 hc
    refine ⟨fun ha => ?_, fun ha => ?_, fun ha => ?_, fun ha => ?_⟩
    · rw [hcommit _ (by simp [mmc1Rows]), mmc1Commit_control r value ha]
    · rw [hcommit _ (by simp [mmc1Rows]), mmc1Commit_chrBank0 r value ha]
    · rw [hcommit _ (by simp [mmc1Rows]), mmc1Commit_chrBank1 r value ha]
    · rw [hcommit _ (by simp [mmc1Rows]), mmc1Commit_prgBank r value ha, setWidth_and_0F]

/-! ### Five writes of a value's bits -/

theorem execAll_cons_of_next {i : Instr} {s t : State} (h : exec i s = .next t) (rest : List Instr) :
    execAll (i :: rest) s = execAll rest t := by
  rw [execAll, h]

theorem bitByte_reset_clear (v : BitVec 5) (k : Nat) : (bitByte v k).getLsbD 7 = false := by
  rw [bitByte]; split <;> rfl

theorem bitByte_getLsbD_zero (v : BitVec 5) (k : Nat) : (bitByte v k).getLsbD 0 = v.getLsbD k := by
  rw [bitByte]; cases v.getLsbD k <;> rfl

/-- One bit of a value, below four: the mapper shifts it in (R291). -/
theorem exec_mmc1_bit {s : State} {r : Mmc1} {a : Addr} {v : BitVec 5} {k : Nat} {i : Instr}
    (hi : i ∈ mmc1Rows a (bitByte v k)) (hm : s.mapper = .mmc1 r) (hc : r.shiftCount < 4) :
    ∃ t, exec i s = .next t ∧ t.mapper = .mmc1 (mmc1ShiftIn r (bitByte v k)) :=
  ⟨_, exec_mmc1_shift hi hm (bitByte_reset_clear v k) hc, rfl⟩

/-- Five rows that send the bits of `v` commit `v` to the register of the fifth address, whatever addresses the first
four name (R114, R291). -/
theorem execAll_mmc1_five {s : State} {r : Mmc1} {v : BitVec 5} {a0 a1 a2 a3 a : Addr} {i0 i1 i2 i3 i : Instr}
    (hm : s.mapper = .mmc1 r) (hc : r.shiftCount = 0)
    (h0 : i0 ∈ mmc1Rows a0 (bitByte v 0)) (h1 : i1 ∈ mmc1Rows a1 (bitByte v 1))
    (h2 : i2 ∈ mmc1Rows a2 (bitByte v 2)) (h3 : i3 ∈ mmc1Rows a3 (bitByte v 3))
    (h4 : i ∈ mmc1Rows a (bitByte v 4)) :
    ∃ t, execAll [i0, i1, i2, i3, i] s = .next t ∧ t.mapper = .mmc1 (mmc1Commit r a v) := by
  obtain ⟨s1, e0, m1⟩ := exec_mmc1_bit h0 hm (by simp [hc])
  obtain ⟨s2, e1, m2⟩ := exec_mmc1_bit h1 m1 (by simp [hc])
  obtain ⟨s3, e2, m3⟩ := exec_mmc1_bit h2 m2 (by simp [hc])
  obtain ⟨s4, e3, m4⟩ := exec_mmc1_bit h3 m3 (by simp [hc])
  have e4 := exec_mmc1_commit h4 m4 (bitByte_reset_clear v 4) (by simp [hc])
  have hvalue := mmc1Shifted_five r v _ _ _ _ _ (r.shiftCount + 1) (r.shiftCount + 1 + 1) (r.shiftCount + 1 + 1 + 1)
    (r.shiftCount + 1 + 1 + 1 + 1) (bitByte_getLsbD_zero v 0) (bitByte_getLsbD_zero v 1) (bitByte_getLsbD_zero v 2)
    (bitByte_getLsbD_zero v 3) (bitByte_getLsbD_zero v 4)
  refine ⟨_, by rw [execAll_cons_of_next e0, execAll_cons_of_next e1, execAll_cons_of_next e2,
    execAll_cons_of_next e3, execAll_cons_of_next e4, execAll], congrArg Mapper.mmc1 ?_⟩
  iterate 4 rw [mmc1Commit_mmc1ShiftIn]
  exact congrArg (mmc1Commit r a) hvalue

/-- Settles O35: the fifth row commits the value to the register its own range selects. -/
theorem mmc1FiveWriteLoad : Obligations.Mmc1FiveWriteLoad := by
  intro s r v a0 a1 a2 a3 a i0 i1 i2 i3 hm hc h0 h1 h2 h3 first
  have hfive : ∀ i ∈ mmc1Rows a (bitByte v 4),
      ∃ t, execAll (first ++ [i]) s = .next t ∧ t.mapper = .mmc1 (mmc1Commit r a v) :=
    fun i h4 => execAll_mmc1_five hm hc h0 h1 h2 h3 h4
  refine ⟨fun ha => ?_, fun ha => ?_, fun ha => ?_, fun ha => ?_⟩
  · rw [← mmc1Commit_prgBank r v ha]; exact hfive _ (by simp [mmc1Rows])
  · rw [← mmc1Commit_control r v ha]; exact hfive _ (by simp [mmc1Rows])
  · rw [← mmc1Commit_chrBank0 r v ha]; exact hfive _ (by simp [mmc1Rows])
  · rw [← mmc1Commit_chrBank1 r v ha]; exact hfive _ (by simp [mmc1Rows])

/-! ### Tables and mirroring in numbers -/

/-- A bank number with bit 0 cleared (R298, R299). -/
theorem toNat_and_not_one {w : Nat} (x : BitVec w) : (x &&& ~~~1#w).toNat = x.toNat / 2 * 2 := by
  have hshift : x &&& ~~~1#w = x >>> 1 <<< 1 := by
    ext i hi
    cases i with
    | zero => simp
    | succ n => simp [Nat.add_comm 1 n, BitVec.getLsbD_eq_getElem hi]
  have hlt : x.toNat / 2 * 2 < 2 ^ w := (Nat.div_mul_le_self _ _).trans_lt x.isLt
  rw [hshift, BitVec.toNat_shiftLeft, BitVec.toNat_ushiftRight, Nat.shiftLeft_eq, Nat.shiftRight_eq_div_pow,
    pow_one, Nat.mod_eq_of_lt hlt]

theorem mmc1PrgMode_eq (r : Mmc1) : mmc1PrgMode r = r.control.toNat / 4 % 4 := by
  rw [mmc1PrgMode, BitVec.extractLsb'_toNat, Nat.shiftRight_eq_div_pow]

theorem mmc1ChrMode_iff (r : Mmc1) : mmc1ChrMode r = true ↔ r.control.toNat / 16 % 2 = 1 := by
  rw [mmc1ChrMode, BitVec.getLsbD, Nat.testBit_eq_decide_div_mod_eq, decide_eq_true_iff]

/-- The two 16 KB windows by `control[3:2]` (R298). -/
theorem mmc1PrgTable_eq (r : Mmc1) {p : Nat} (hp : 1 ≤ p) :
    mmc1PrgTable r p =
      if r.control.toNat / 4 % 4 = 3 then [⟨r.prgBank.toNat % p, 0⟩, ⟨p - 1, 0⟩]
      else if r.control.toNat / 4 % 4 = 2 then [⟨0, 0⟩, ⟨r.prgBank.toNat % p, 0⟩]
      else [⟨r.prgBank.toNat / 2 * 2 % p, 0⟩, ⟨(r.prgBank.toNat / 2 * 2 + 1) % p, 0⟩] := by
  have heven : (r.prgBank &&& 0x0E#4).toNat = r.prgBank.toNat / 2 * 2 := toNat_and_not_one r.prgBank
  have hlast : (p - 1) % p = p - 1 := Nat.mod_eq_of_lt (Nat.sub_one_lt_of_le hp le_rfl)
  simp only [mmc1PrgTable, prgUnit16_eq, heven, hlast, Nat.zero_mod, mmc1PrgMode_eq]
  split
  case h_1 hmode => rw [hmode]; rfl
  case h_2 hmode => rw [hmode]; rfl
  case h_3 hne2 hne3 => rw [if_neg hne3, if_neg hne2]

/-- The two 4 KB windows by `control[4]` (R299). -/
theorem mmc1ChrTable_eq (r : Mmc1) (c : Nat) :
    mmc1ChrTable r c =
      if r.control.toNat / 16 % 2 = 1 then [chrUnit4 c r.chrBank0.toNat, chrUnit4 c r.chrBank1.toNat]
      else [chrUnit4 c (r.chrBank0.toNat / 2 * 2), chrUnit4 c (r.chrBank0.toNat / 2 * 2 + 1)] := by
  have heven : (r.chrBank0 &&& 0x1E#5).toNat = r.chrBank0.toNat / 2 * 2 := toNat_and_not_one r.chrBank0
  simp only [mmc1ChrTable, mmc1ChrMode_iff, heven]

/-- The mirroring by `control[1:0]` (R297). -/
theorem mmc1Mirroring_eq (r : Mmc1) :
    mmc1Mirroring r =
      if r.control.toNat % 4 = 0 then .oneScreenLower else if r.control.toNat % 4 = 1 then .oneScreenUpper
      else if r.control.toNat % 4 = 2 then .vertical else .horizontal := by
  have hmode : (r.control.extractLsb' 0 2).toNat = r.control.toNat % 4 := BitVec.extractLsb'_toNat 0 2 r.control
  rw [mmc1Mirroring, hmode]
  split
  case h_1 h => rw [h]; rfl
  case h_2 h => rw [h]; rfl
  case h_3 h => rw [h]; rfl
  case h_4 h0 h1 h2 => rw [if_neg h0, if_neg h1, if_neg h2]

/-- Settles O36: a session's tables and mirroring are those of the registers. -/
theorem mmc1Tables : Obligations.Mmc1Tables := by
  rintro s r hm ⟨⟨hp, -⟩, hprg, hchr⟩ hmir p c unit4
  rw [hm] at hprg hchr
  rw [MirroringCoherent, hm] at hmir
  exact ⟨hprg.trans (mmc1PrgTable_eq r hp), hchr.trans (mmc1ChrTable_eq r c), hmir.trans (mmc1Mirroring_eq r)⟩

end Sys2Proof.Machine

/-! TXROM / MMC3 (46_mapper_mmc3.md): its eight ports, its IRQ counter and its tables. -/

namespace Sys2Proof.Machine

/-! ### The eight ports -/

/-- A port write in an MMC3 session leaves the changed registers, recomputed (R245, R320). -/
theorem onMmc3_updateMapper {s : State} {r : Mmc3} (f : Mmc3 → Mmc3) (hm : s.mapper = .mmc3 r) :
    onMmc3 s (fun q => updateMapper (.mmc3 (f q)) s) = .next (recomputed (.mmc3 (f r)) s) := by
  rw [onMmc3_own s r _ hm, complete_updateMapper_mmc3]

theorem exec_mmc3BankSelectW {s : State} {r : Mmc3} (a : Addr) (d : Byte) (hm : s.mapper = .mmc3 r) :
    exec (.mmc3BankSelectW a d) s = .next (recomputed (.mmc3 { r with bankSelect := d }) s) :=
  onMmc3_updateMapper (fun q => { q with bankSelect := d }) hm

theorem exec_mmc3BankDataW {s : State} {r : Mmc3} (a : Addr) (d : Byte) (hm : s.mapper = .mmc3 r) :
    exec (.mmc3BankDataW a d) s =
      .next (recomputed (.mmc3 { r with bankData := bankDataSet r.bankData (mmc3Target r) d }) s) :=
  onMmc3_updateMapper (fun q => { q with bankData := bankDataSet q.bankData (mmc3Target q) d }) hm

theorem mmc3Target_toNat (r : Mmc3) : (mmc3Target r).toNat = r.bankSelect.toNat % 8 :=
  BitVec.extractLsb'_toNat 0 3 r.bankSelect

/-- Settles O37: the data byte goes to the register `bank_select[2:0]` names. -/
theorem mmc3BankPorts : Obligations.Mmc3BankPorts := by
  refine fun s r a d hm => ⟨exec_mmc3BankSelectW a d hm, _, exec_mmc3BankDataW a d hm, fun k => ?_⟩
  rw [bankDataGet_bankDataSet, mmc3Target_toNat]

/-- The pushed mode, by the parity of the byte written (R313, R320). -/
theorem mmc3Mirroring_of_byte (r : Mmc3) (d : Byte) :
    mmc3Mirroring { r with mirroringReg := d.getLsbD 0 } = if d.toNat % 2 = 1 then .horizontal else .vertical := by
  simp only [mmc3Mirroring, BitVec.getLsbD, Nat.testBit_zero, decide_eq_true_eq]

/-- Settles O38: each port is the recompute after its own register; the mirroring port's pushes the new mode. -/
theorem mmc3OtherPorts : Obligations.Mmc3OtherPorts := by
  intro s r a d hm
  refine ⟨⟨_, ?mirroring, rfl, mmc3Mirroring_of_byte r d⟩, ?ramProtect, ?irqLatch, ?irqReload, ?irqDisable,
    ?irqEnable⟩
  case mirroring => exact onMmc3_updateMapper (fun q => { q with mirroringReg := d.getLsbD 0 }) hm
  case ramProtect => exact onMmc3_updateMapper (fun q => { q with ramProtect := d }) hm
  case irqLatch => exact onMmc3_updateMapper (fun q => { q with irqPeriod := d }) hm
  case irqReload => exact onMmc3_updateMapper (fun q => { q with irqCounter := 0#8 }) hm
  case irqDisable => exact onMmc3_updateMapper (fun q => { q with irqEnabled := false }) hm
  case irqEnable => exact onMmc3_updateMapper (fun q => { q with irqEnabled := true }) hm

/-- A data write sets the register that `bank_select` names, and leaves `bank_select` (R312). -/
theorem exec_mmc3BankDataW_selected {s : State} {r : Mmc3} (a : Addr) (d : Byte) (hm : s.mapper = .mmc3 r) :
    ∃ t q, exec (.mmc3BankDataW a d) s = .next t ∧ t.mapper = .mmc3 q ∧ q.bankSelect = r.bankSelect
      ∧ bankDataGet q.bankData (r.bankSelect.setWidth 3) = d := by
  refine ⟨_, _, exec_mmc3BankDataW a d hm, rfl, rfl, ?_⟩
  rw [bankDataGet_bankDataSet, mmc3Target_toNat, BitVec.toNat_setWidth]
  exact if_pos rfl

/-- Settles O39: the select leaves K in `bank_select`, and no data write changes it. -/
theorem mmc3SelectThenData : Obligations.Mmc3SelectThenData := by
  intro s r a b c k d e hm
  have hselect := exec_mmc3BankSelectW a k hm
  obtain ⟨t, q, hfirst, hq, hkept, hd⟩ :=
    exec_mmc3BankDataW_selected (s := recomputed (.mmc3 { r with bankSelect := k }) s) b d rfl
  obtain ⟨u, q', hsecond, hq', -, he⟩ := exec_mmc3BankDataW_selected c e hq
  rw [hkept] at he
  refine ⟨⟨t, q, ?_, hq, hd⟩, u, q', ?_, hq', he⟩
  · rw [execAll_cons_of_next hselect, execAll_cons_of_next hfirst, execAll]
  · rw [execAll_cons_of_next hselect, execAll_cons_of_next hfirst, execAll_cons_of_next hsecond, execAll]

/-! ### The IRQ counter -/

theorem irqFires_iff (r : Mmc3) : irqFires r = true ↔ r.irqCounter = 0#8 ∧ r.irqEnabled = true := by
  rw [irqFires, Bool.and_eq_true, decide_eq_true_eq]

theorem clockIrq_of_eq_zero {r : Mmc3} (h : r.irqCounter = 0#8) :
    clockIrq r = { r with irqCounter := r.irqPeriod } := by
  rw [clockIrq, if_pos h]

theorem clockIrq_of_ne_zero {r : Mmc3} (h : r.irqCounter ≠ 0#8) :
    clockIrq r = { r with irqCounter := r.irqCounter - 1#8 } := by
  rw [clockIrq, if_neg h]

/-- Settles O40: the hook leaves the clocked registers, and the irq by their counter. -/
theorem mmc3HookClock : Obligations.Mmc3HookClock := by
  intro s r hm count
  have hfires : irqFires (clockIrq r) = true ↔ count = 0#8 ∧ r.irqEnabled = true := irqFires_iff (clockIrq r)
  simp only [exec_mmc3Hook s r hm, hfires]
  rfl

/-- A hook whose clock does not reach 0 emits nothing (R321). -/
theorem exec_mmc3Hook_silent {s : State} {r : Mmc3} (hm : s.mapper = .mmc3 r) (h : (clockIrq r).irqCounter ≠ 0#8) :
    ∃ t, exec .mmc3Hook s = .next t ∧ t.events = s.events ∧ t.mapper = .mmc3 (clockIrq r) :=
  ⟨_, mmc3HookClock s r hm, if_neg fun hfires => h hfires.1, rfl⟩

/-- A hook whose clock reaches 0 emits the irq when that is enabled (R321). -/
theorem exec_mmc3Hook_irq {s : State} {r : Mmc3} (hm : s.mapper = .mmc3 r) (h : (clockIrq r).irqCounter = 0#8)
    (hen : r.irqEnabled = true) :
    ∃ t, exec .mmc3Hook s = .next t ∧ t.events = s.events ++ [.irq] ∧ t.mapper = .mmc3 (clockIrq r) :=
  ⟨_, mmc3HookClock s r hm, if_pos ⟨h, hen⟩, rfl⟩

/-- Hooks one fewer than bring the counter to 0 emit nothing. `q` is told by its next clock, as the first clock may be a
reload and every later one is a decrement (R321). -/
theorem execAll_mmc3Hook_countdown {s : State} {r : Mmc3} (hm : s.mapper = .mmc3 r) (k : Nat)
    (hk : k ≤ (clockIrq r).irqCounter.toNat) :
    ∃ t q, execAll (List.replicate k .mmc3Hook) s = .next t ∧ t.events = s.events ∧ t.mapper = .mmc3 q
      ∧ q.irqEnabled = r.irqEnabled
      ∧ clockIrq q = { r with irqCounter := (clockIrq r).irqCounter - BitVec.ofNat 8 k } := by
  induction k with
  | zero => exact ⟨s, r, rfl, rfl, hm, rfl, by rw [BitVec.sub_zero]; rfl⟩
  | succ k ih =>
    obtain ⟨t, q, hrun, hevents, hq, hen, hclock⟩ := ih (by omega)
    have hpos : (clockIrq r).irqCounter - BitVec.ofNat 8 k ≠ 0#8 := by bv_omega
    have hcount : (clockIrq q).irqCounter ≠ 0#8 := by rw [hclock]; exact hpos
    obtain ⟨u, hstep, huevents, hu⟩ := exec_mmc3Hook_silent hq hcount
    refine ⟨u, clockIrq q, ?_, huevents.trans hevents, hu, hen, ?_⟩
    · rw [List.replicate_succ', execAll_snoc _ _ s t hrun, hstep]
    · rw [clockIrq_of_ne_zero hcount, hclock, BitVec.sub_sub, ← BitVec.ofNat_add]

/-- Settles O41: the first clock reloads `irq_period`, so the counter is 0 again at clock `irq_period + 1`, and the
registers are those of the start. -/
theorem mmc3IrqPeriod : Obligations.Mmc3IrqPeriod := by
  intro s r hm hzero hen
  have hreload : (clockIrq r).irqCounter = r.irqPeriod := by rw [clockIrq_of_eq_zero hzero]
  refine ⟨fun k hk => ?_, ?_⟩
  · obtain ⟨t, -, hrun, hevents, -⟩ := execAll_mmc3Hook_countdown hm k (hreload ▸ hk)
    exact ⟨t, hrun, hevents⟩
  · obtain ⟨t, q, hrun, hevents, hq, hqen, hclock⟩ :=
      execAll_mmc3Hook_countdown hm r.irqPeriod.toNat (hreload ▸ le_rfl)
    have hback : clockIrq q = r := by
      rw [hclock, hreload, BitVec.ofNat_toNat, BitVec.setWidth_eq, BitVec.sub_self, ← hzero]
    obtain ⟨u, hstep, huevents, hu⟩ := exec_mmc3Hook_irq hq (hback ▸ hzero) (hqen.trans hen)
    refine ⟨u, ?_, hevents ▸ huevents, hback ▸ hu⟩
    rw [List.replicate_succ', execAll_snoc _ _ s t hrun, hstep]

/-! ### Tables in numbers -/

theorem mmc3PrgMode_iff (r : Mmc3) : mmc3PrgMode r = true ↔ r.bankSelect.toNat / 64 % 2 = 1 := by
  rw [mmc3PrgMode, BitVec.getLsbD, Nat.testBit_eq_decide_div_mod_eq, decide_eq_true_iff]

/-- Bit 7 is the top bit of the byte, so it is the whole quotient by 128. -/
theorem mmc3ChrMode_iff (r : Mmc3) : mmc3ChrMode r = true ↔ r.bankSelect.toNat / 128 = 1 := by
  have htop : r.bankSelect.toNat / 128 < 2 := Nat.div_lt_of_lt_mul r.bankSelect.isLt
  rw [mmc3ChrMode, BitVec.getLsbD, Nat.testBit_eq_decide_div_mod_eq, decide_eq_true_iff, Nat.mod_eq_of_lt htop]

/-- The four 8 KB windows by `bank_select[6]` (R315). -/
theorem mmc3PrgTable_eq (r : Mmc3) (p : Nat) :
    mmc3PrgTable r p =
      if r.bankSelect.toNat / 64 % 2 = 1 then
        [prgUnit8 p (2 * p - 2), prgUnit8 p r.bankData.r7.toNat, prgUnit8 p r.bankData.r6.toNat, prgUnit8 p (2 * p - 1)]
      else
        [prgUnit8 p r.bankData.r6.toNat, prgUnit8 p r.bankData.r7.toNat, prgUnit8 p (2 * p - 2),
          prgUnit8 p (2 * p - 1)] := by
  simp only [mmc3PrgTable, mmc3PrgMode_iff]

/-- The even unit and the odd one after it, for R0 and R1 (R322). -/
theorem mmc3ChrPairs_eq (b : BankData) (c : Nat) :
    mmc3ChrPairs b c =
      [chrUnit1 c (b.r0.toNat / 2 * 2), chrUnit1 c (b.r0.toNat / 2 * 2 + 1), chrUnit1 c (b.r1.toNat / 2 * 2),
        chrUnit1 c (b.r1.toNat / 2 * 2 + 1)] := by
  simp only [mmc3ChrPairs, and_FE_toNat, or_one_toNat]

/-- The pairs and the singles by `bank_select[7]` (R322). -/
theorem mmc3ChrTable_eq (r : Mmc3) (c : Nat) :
    mmc3ChrTable r c =
      if r.bankSelect.toNat / 128 = 1 then mmc3ChrSingles r.bankData c ++ mmc3ChrPairs r.bankData c
      else mmc3ChrPairs r.bankData c ++ mmc3ChrSingles r.bankData c := by
  simp only [mmc3ChrTable, mmc3ChrMode_iff]

/-- Settles O42: a session's tables and mirroring are those of the registers. -/
theorem mmc3Tables : Obligations.Mmc3Tables := by
  rintro s r hm ⟨-, hprg, hchr⟩ hmir p c unit8 unit1 b pairs singles
  rw [hm] at hprg hchr
  rw [MirroringCoherent, hm] at hmir
  have hpairs : mmc3ChrPairs b c = pairs := mmc3ChrPairs_eq b c
  refine ⟨hprg.trans (mmc3PrgTable_eq r p), hchr.trans ?_, hmir⟩
  rw [← hpairs]
  exact mmc3ChrTable_eq r c

end Sys2Proof.Machine

/-! RESET (R371, R372): the mapper's registers at their reset values, and what these give. -/

namespace Sys2Proof.Machine

/-- The three variants whose reset registers select bank 0, and which leave the mirroring to the header (R270, R273,
R276). -/
theorem banks_of_discrete_reset {m : Mapper} (h : m = .nrom ∨ m = .uxrom 0 ∨ m = .cnrom 0) (p c : Nat) (v : Bool) :
    prgTableOf m p = [⟨0, 0⟩, ⟨(p - 1) % p, 0⟩] ∧ chrTableOf m c = [⟨0, 0⟩]
      ∧ mirroringOf m v = headerMirroring v := by
  have hprg : prgTableOf m p = fixedPrgTable p := by obtain rfl | rfl | rfl := h <;> rfl
  have hchr : chrTableOf m c = [chrUnit8 c 0] := by obtain rfl | rfl | rfl := h <;> rfl
  have hmode : mirroringOf m v = headerMirroring v := by obtain rfl | rfl | rfl := h <;> rfl
  rw [hprg, hchr, chrUnit8_eq, Nat.zero_mod]
  exact ⟨fixedPrgTable_eq p, rfl, hmode⟩

/-- Settles O8: the statement's registers are those of `mapperAtReset`; the tables and the mirroring are recomputed from
them, and the PPU is the one all zeroed, whose memories list no byte. -/
theorem resetEffect : Obligations.ResetEffect := by
  intro s m zero
  have hm : mapperAtReset s.params s.mapper = m := rfl
  clear_value m
  subst hm
  refine ⟨complete (resetBlock s), rfl, rfl, fun h => banks_of_discrete_reset h _ _ _, fun r h => ?_, fun r h => ?_,
    rfl, rfl, rfl, rfl, rfl, rfl, rfl, rfl, rfl, rfl, rfl, rfl, rfl, rfl, rfl, rfl, rfl, rfl, rfl, rfl, rfl, rfl, rfl,
    fun _ => rfl, fun _ => rfl, fun _ => rfl, rfl, rfl⟩
  · exact (congrArg (mirroringOf · s.cart.hdrVertical) h).trans (mmc1Mirroring_eq r)
  · exact congrArg (mirroringOf · s.cart.hdrVertical) h

end Sys2Proof.Machine

/-! The faults of a session's transactions (R340 to R343). -/

namespace Sys2Proof.Machine

/-! ### Accesses that never fault in a session -/

theorem ne_fault_of_next {o : Host.Outcome State Fault Refusal} {t : State} (h : o = .next t) (f : Fault) :
    o ≠ .fault f := by
  rw [h]; exact nofun

theorem exec_prgR_ne_fault {s : State} {a : Addr} (f : Fault) (hs : StorageOk s) (ha : 0x8000 ≤ a.toNat) :
    exec (.prgR a) s ≠ .fault f := by
  obtain ⟨b, j, -, -, -, hread⟩ := prgRead_ok s a hs ha
  exact ne_fault_of_next (exec_prgR_of_prgRead hread) f

theorem exec_ramR_ne_fault {s : State} (a : Addr) (f : Fault) (hs : StorageOk s) : exec (.ramR a) s ≠ .fault f := by
  by_cases h : ramReadable s = true
  · exact ne_fault_of_next (exec_ramR_open a hs.1 h) f
  · exact ne_fault_of_next (exec_ramR_closed a h) f

theorem exec_ramW_ne_fault {s : State} (a : Addr) (d : Byte) (f : Fault) (hs : StorageOk s) :
    exec (.ramW a d) s ≠ .fault f := by
  by_cases h : ramWritable s = true
  · exact ne_fault_of_next (exec_ramW_open a d hs.1 h) f
  · exact ne_fault_of_next (exec_ramW_closed a d h) f

theorem exec_chrR_ne_fault {s : State} {a : Addr} (f : Fault) (hs : StorageOk s) (ha : a.toNat ≤ 0x1FFF) :
    exec (.chrR a) s ≠ .fault f := by
  obtain ⟨b, j, -, -, -, hread⟩ := chrRead_ok s a.toNat hs ha
  exact ne_fault_of_next (exec_chrR_of_chrRead hread) f

/-- A PPUDATA read reads the bus below the palette, and the palette itself above (R139). -/
theorem exec_ppuDataR_ne_fault {s : State} (a : Addr) (f : Fault) (hs : StorageOk s) :
    exec (.ppuDataR a) s ≠ .fault f := by
  obtain hb | hb := Nat.lt_or_ge (s.ppu.v.setWidth 14).toNat 0x3F00
  · obtain ⟨b, hread⟩ := ppuBusRead_ok s (s.ppu.v.setWidth 14) hs
    exact ne_fault_of_next (exec_ppuDataR_delayed a (Nat.le_of_lt_succ hb) hread) f
  · exact ne_fault_of_next (exec_ppuDataR_palette a hb) f

theorem exec_tick_ne_fault {s : State} (f : Fault) (hs : StorageOk s) : exec .tick s ≠ .fault f := by
  obtain ⟨t, h, -⟩ := execTick_ok s hs
  exact ne_fault_of_next h f

/-! ### The three rows that may fault -/

theorem eq_nrom_of_id {m : Mapper} (h : m.id = 0#8) : m = .nrom := by
  cases m with
  | nrom => rfl
  | uxrom sel | cnrom sel | mmc1 r | mmc3 r => simp [Mapper.id] at h

/-- NROM_PRG_W faults in a session of NROM (R271). -/
theorem exec_nromPrgW_fault {s : State} {a : Addr} {d : Byte} {f : Fault} (h : exec (.nromPrgW a d) s = .fault f) :
    s.mapper = .nrom ∧ f = .unsupportedMapperAddress a.toNat := by
  simp only [exec, execNromPrgW, forVariant] at h
  split at h
  · next hid => cases h; exact ⟨eq_nrom_of_id hid, rfl⟩
  · cases h

/-- CHR_W faults as `write_rom_character` does (R243). -/
theorem exec_chrW_fault {s : State} {a : Addr} {d : Byte} {f : Fault} (h : exec (.chrW a d) s = .fault f) :
    chrWrite a.toNat d s = .error f := by
  cases hw : chrWrite a.toNat d s with
  | ok u => exact absurd h (ne_fault_of_next (exec_chrW_of_ok hw) f)
  | error g => rw [exec_chrW_of_error hw] at h; cases h; rfl

/-- PPUDATA_W faults as the write of the PPU bus does (R137). -/
theorem exec_ppuDataW_fault {s : State} {a : Addr} {d : Byte} {f : Fault} (h : exec (.ppuDataW a d) s = .fault f) :
    ppuBusWrite (s.ppu.v.setWidth 14) d s = .error f := by
  cases hw : ppuBusWrite (s.ppu.v.setWidth 14) d s with
  | ok u => exact absurd h (ne_fault_of_next (exec_ppuDataW_of_ok a hw) f)
  | error g => rw [exec_ppuDataW_of_error a hw] at h; cases h; rfl

/-- Of the three regions of the bus only CHR memory refuses a write, and only CHR ROM under Fault (R67, R243). -/
theorem ppuBusWrite_fault_cases {s : State} {b : PpuAddr} {d : Byte} {f : Fault} (hs : StorageOk s)
    (h : ppuBusWrite b d s = .error f) :
    s.cart.chrRomBanks ≠ 0 ∧ s.params.chrRomWrite = .fault ∧ f = .unsupportedMapperAddress b.toNat := by
  simp only [ppuBusWrite] at h
  split at h
  · next hb => exact chrWrite_fault_cases b.toNat d s f hs hb h
  · split at h <;> cases h

/-- Settles O57: row by row, a transaction completes, or is refused in a session of another variant, or is one of the
three rows that may fault. -/
theorem faultsOnlyWhereStated : Obligations.FaultsOnlyWhereStated := by
  intro s i f hs hwf h
  cases i with
  | nromPrgW a d =>
    obtain ⟨hm, hf⟩ := exec_nromPrgW_fault h
    exact .inl ⟨a, d, rfl, hm, hf⟩
  | chrW a d =>
    obtain ⟨hrom, hpolicy, hf⟩ := chrWrite_fault_cases _ d s f hs (chrAddr_le a hwf) (exec_chrW_fault h)
    exact .inr ⟨hrom, hpolicy, .inl ⟨a, d, rfl, hf⟩⟩
  | ppuDataW a d =>
    obtain ⟨hrom, hpolicy, hf⟩ := ppuBusWrite_fault_cases hs (exec_ppuDataW_fault h)
    rw [BitVec.toNat_setWidth] at hf
    exact .inr ⟨hrom, hpolicy, .inr ⟨a, d, rfl, hf⟩⟩
  | prgR a => exact absurd h (exec_prgR_ne_fault f hs (prgAddr_ge a hwf))
  | ramR a => exact absurd h (exec_ramR_ne_fault a f hs)
  | ramW a d => exact absurd h (exec_ramW_ne_fault a d f hs)
  | chrR a => exact absurd h (exec_chrR_ne_fault f hs (chrAddr_le a hwf))
  | ppuDataR a => exact absurd h (exec_ppuDataR_ne_fault a f hs)
  | tick => exact absurd h (exec_tick_ne_fault f hs)
  | uxromBankW a d | cnromBankW a d | nromHook | uxromHook | cnromHook =>
    exact absurd h (forVariant_no_fault _ s _ f)
  | mmc1ControlW a d | mmc1Chr0W a d | mmc1Chr1W a d | mmc1PrgW a d | mmc1Hook =>
    exact absurd h (onMmc1_no_fault s _ f)
  | mmc3BankSelectW a d | mmc3BankDataW a d | mmc3MirroringW a d | mmc3RamProtectW a d | mmc3IrqLatchW a d
  | mmc3IrqReloadW a d | mmc3IrqDisableW a d | mmc3IrqEnableW a d | mmc3Hook =>
    exact absurd h (onMmc3_no_fault s _ f)
  | ppuCtrlW a d | ppuMaskW a d | ppuStatusW a d | oamAddrW a d | oamDataW a d | ppuScrollW a d | ppuAddrW a d
  | ppuCtrlR a | ppuMaskR a | ppuStatusR a | oamAddrR a | oamDataR a | ppuScrollR a | ppuAddrR a | ntR a | ntW a d
  | palR a | palW a d | reset => cases h

end Sys2Proof.Machine

/-! The sources of the events (R350, R351), read off the cases of Effect. -/

namespace Sys2Proof.Machine

/-! ### What the event step and the hook emit -/

theorem mem_eventsOfEvents {p : Ppu} {e : Event} (h : e ∈ eventsOfEvents p) :
    (e = .nmi ∧ p.scanline = 241 ∧ p.dot = 1 ∧ p.control.getLsbD 7 = true) ∨ e = .displayUpdate := by
  rw [eventsOfEvents] at h
  split at h
  · next hnmi => exact .inl ⟨List.mem_singleton.1 h, hnmi⟩
  · split at h
    · exact .inr (List.mem_singleton.1 h)
    · exact absurd h List.not_mem_nil

theorem mem_eventsOfHook {m : Mapper} {e : Event} (h : e ∈ eventsOfHook m) :
    e = .irq ∧ ∃ r, m = .mmc3 r ∧ r.irqEnabled = true := by
  cases m with
  | mmc3 r =>
    rw [eventsOfHook_mmc3] at h
    split at h
    · next hfires => exact ⟨List.mem_singleton.1 h, r, rfl, hfires.2⟩
    · exact absurd h List.not_mem_nil
  | nrom | uxrom sel | cnrom sel | mmc1 r => exact absurd h List.not_mem_nil

/-! ### The events of each case of Effect -/

/-- Where an event emitted by the transaction `i` from `s` comes from (R351). -/
structure EventSource (s : State) (i : Instr) (e : Event) : Prop where
  nmi : e = .nmi → i = .tick ∧ s.ppu.scanline = 241 ∧ s.ppu.dot = 1 ∧ s.ppu.control.getLsbD 7 = true
  irq : e = .irq → (i = .mmc3Hook ∨ (i = .tick ∧ OnRenderingLine s ∧ s.ppu.dot = 260 ∧ RenderingOn s))
    ∧ ∃ r, s.mapper = .mmc3 r ∧ r.irqEnabled = true
  emitter : i = .tick ∨ i = .mmc3Hook

/-- An event of a tick is of the pixel, of the event step, or of the hook where it is due (R182 to R184, R217). -/
theorem TickFrame.eventSource {s t : State} (h : TickFrame s t) :
    ∃ new, t.events = s.events ++ new ∧ ∀ e ∈ new, EventSource s .tick e := by
  obtain ⟨c, hevents⟩ := h.events
  refine ⟨_, by rw [hevents, List.append_assoc, List.append_assoc], fun e he => ?_⟩
  obtain he | he | he := by simpa only [List.mem_append] using he
  · split at he
    · cases List.mem_singleton.1 he
      exact ⟨nofun, nofun, .inl rfl⟩
    · exact absurd he List.not_mem_nil
  · obtain ⟨rfl, hat⟩ | rfl := mem_eventsOfEvents he
    · exact ⟨fun _ => ⟨rfl, hat⟩, nofun, .inl rfl⟩
    · exact ⟨nofun, nofun, .inl rfl⟩
  · split at he
    · next hdue =>
      obtain rfl | he := List.mem_cons.1 he
      · exact ⟨nofun, nofun, .inl rfl⟩
      · obtain ⟨rfl, henabled⟩ := mem_eventsOfHook he
        exact ⟨nofun, fun _ => ⟨.inr ⟨rfl, (hookDue_iff s).1 hdue⟩, henabled⟩, .inl rfl⟩
    · exact absurd he List.not_mem_nil

theorem mmc3Hook_events {s : State} {r : Mmc3} (hr : s.mapper = .mmc3 r) :
    (mmc3Hook s r).events = s.events ++ eventsOfHook s.mapper := by
  have hrun : runHook s = mmc3Hook s r := by rw [runHook, hr]
  rw [← hrun, runHook_eq]

theorem MapperEffect.events {s t : State} (h : MapperEffect s t) : t.events = s.events := by
  cases h <;> rfl

/-- The trace of a transaction that completes: the old one, and events each with its source. -/
theorem Effect.eventSource {s t : State} {i : Instr} (h : Effect s i t) :
    ∃ new, t.events = s.events ++ new ∧ ∀ e ∈ new, EventSource s i e := by
  have silent {u : State} (hu : u.events = s.events) :
      ∃ new, u.events = s.events ++ new ∧ ∀ e ∈ new, EventSource s i e :=
    ⟨[], by rw [hu, List.append_nil], nofun⟩
  cases h with
  | access i t _ _ ha => exact silent ha.events
  | mapper i t _ _ hm => exact silent hm.events
  | hook r hr =>
    refine ⟨_, mmc3Hook_events hr, fun e he => ?_⟩
    obtain ⟨rfl, henabled⟩ := mem_eventsOfHook he
    exact ⟨nofun, fun _ => ⟨.inl rfl, henabled⟩, .inr rfl⟩
  | tick u hu => exact (tick_frame s u hu).eventSource
  | reset => exact silent rfl

/-- Settles O59: every new event of the trace has its source. -/
theorem eventsOnlyWhereStated : Obligations.EventsOnlyWhereStated := by
  intro s t i h
  obtain ⟨new, hnew, hsource⟩ := (exec_effect i s t h).eventSource
  refine ⟨new, hnew, fun hnmi => (hsource _ hnmi).nmi rfl, fun hirq => (hsource _ hirq).irq rfl, fun hne => ?_⟩
  obtain ⟨e, he⟩ := List.exists_mem_of_ne_nil new hne
  exact (hsource e he).emitter

end Sys2Proof.Machine
